-- ==== Sys2Proof/Word.lean ====
section
/-! DEFINITION. Words of the LSH-4: bytes, 16-bit counters, tags and region ids. -/

namespace Sys2Proof

/-- One byte, on a link or in the DRAM. -/
abbrev Byte := BitVec 8

/-- A 16-bit counter that wraps: an epoch (R50) or a notice sequence number (R180). -/
abbrev Word16 := BitVec 16

/-- A session number, 0 to 255, which wraps (R22). -/
abbrev SessNo := BitVec 8

/-- A tag 0 to 7, which pairs a request with its reply (section 1.2). -/
abbrev Tag := Fin 8

/-- A region id 0 to 31, the index of a slot of the region table (section 3.1). -/
abbrev RegionId := Fin 32

end Sys2Proof
end

