-- ==== Sys2Proof/Config.lean ====
section
/-! DEFINITION. What the board and the DRAM device fix and the manual leaves open: free values, constants
without a body, of which no proof can learn a value. -/

namespace Sys2Proof.Config

/-- What a DRAM byte holds that nothing has written since the contents became unwarranted for the
`generation`-th time (R130: after an init no byte but the training pages is warranted; power-on).
Log 9. -/
opaque unwrittenByte (generation address : Nat) : Byte

/-- The training pattern of DRAM pages 0 and 1 (R129 step 3, R130), which the manual does not give. Log 10. -/
opaque trainingByte (address : Nat) : Byte

/-- What a written DRAM byte holds after rows may have lost charge: after a refresh overrun (R128) or in
memory beyond its retention range (R158, R167). The byte may be unharmed. Log 11. -/
opaque chargeLoss (generation address : Nat) (old : Byte) : Byte

end Sys2Proof.Config
end

