-- ==== Sys2Proof/Syntax.lean ====
section
/-! DEFINITION. The commands of the LSH-4: one constructor for each row of spec/opcode_table.json. -/

namespace Sys2Proof

/-- The four ports, with indices 0 to 3 (section 5 of the introduction). -/
inductive Port where
  | a | b | c | d
  deriving DecidableEq, Repr

/-- The levels of the strap pins at a reset: SUP[1:0] (R19) and the two link rate straps (R2). -/
structure Straps where
  sup : BitVec 2
  rateFirst : Bool
  rateSecond : Bool
  deriving DecidableEq, Repr

/-- A command: an event the hub takes whole (spec/opcode_table.json).

Frames that arrive carry their port, tag byte and payload as received; a bad or abandoned frame carries its
bytes from the start marker on. -/
inductive Instr where
  /-- Power is applied, with the straps at these levels (R175). -/
  | powerOn (straps : Straps)
  /-- RESET# is found low (R171). -/
  | resetAsserted
  /-- The reset of a warm restart (R173); the straps are sampled if the release follows at once. -/
  | warmRestartReset (straps : Straps)
  /-- RESET# is found high (R173), with the straps at these levels. -/
  | resetReleased (straps : Straps)
  /-- These bytes arrive, and then none for 200 µs (R7). -/
  | gapTimeout (port : Port) (bytes : List Byte)
  /-- These bytes arrive and end as a bad frame, OVERLENGTH or BAD_CRC (R5, R6, R8). -/
  | badFrame (port : Port) (bytes : List Byte)
  /-- A good frame arrives whose kind no client may send (R10, step 2). -/
  | badKindFrame (port : Port) (kind tagByte : Byte) (payload : List Byte)
  /-- A CREDIT frame arrives (R14). -/
  | credit (port : Port) (tagByte : Byte) (payload : List Byte)
  /-- A RESEND frame arrives (R13). -/
  | resend (port : Port) (tagByte : Byte) (payload : List Byte)
  | hello (port : Port) (tagByte : Byte) (payload : List Byte)
  | leave (port : Port) (tagByte : Byte) (payload : List Byte)
  | ping (port : Port) (tagByte : Byte) (payload : List Byte)
  | status (port : Port) (tagByte : Byte) (payload : List Byte)
  | setParam (port : Port) (tagByte : Byte) (payload : List Byte)
  | getParam (port : Port) (tagByte : Byte) (payload : List Byte)
  | defineRegion (port : Port) (tagByte : Byte) (payload : List Byte)
  | alterRegion (port : Port) (tagByte : Byte) (payload : List Byte)
  | deleteRegion (port : Port) (tagByte : Byte) (payload : List Byte)
  | queryRegion (port : Port) (tagByte : Byte) (payload : List Byte)
  | claim (port : Port) (tagByte : Byte) (payload : List Byte)
  | accept (port : Port) (tagByte : Byte) (payload : List Byte)
  | withdraw (port : Port) (tagByte : Byte) (payload : List Byte)
  | release (port : Port) (tagByte : Byte) (payload : List Byte)
  | revoke (port : Port) (tagByte : Byte) (payload : List Byte)
  | unfence (port : Port) (tagByte : Byte) (payload : List Byte)
  | read (port : Port) (tagByte : Byte) (payload : List Byte)
  | write (port : Port) (tagByte : Byte) (payload : List Byte)
  | fill (port : Port) (tagByte : Byte) (payload : List Byte)
  | reinit (port : Port) (tagByte : Byte) (payload : List Byte)
  | resume (port : Port) (tagByte : Byte) (payload : List Byte)
  | clearSuspect (port : Port) (tagByte : Byte) (payload : List Byte)
  | restart (port : Port) (tagByte : Byte) (payload : List Byte)
  | evictPort (port : Port) (tagByte : Byte) (payload : List Byte)
  /-- The transmitter of the port sends the last byte of the frame in progress (R15). -/
  | frameTransmitted (port : Port)
  /-- The silence timer of the port expires (R31). -/
  | silenceTimeout (port : Port)
  /-- The first phase of the port's LEAVE drain ends (R26, R27). -/
  | leaveDrainEnd (port : Port)
  /-- The offer deadline of the region is reached (R66). -/
  | offerDeadlineExpiry (region : RegionId)
  /-- The recall deadline of the region is reached (R79). -/
  | recallDeadlineExpiry (region : RegionId)
  /-- The Lease Directory takes the oldest end report (R74, R111). -/
  | transactionEndReport
  /-- The port's FIFO has room for the request in its admission slot (R104). -/
  | admissionSlotRelease (port : Port)
  /-- The burst in progress completes (R124). -/
  | burstComplete
  /-- The refresh in progress completes (R126). -/
  | refreshComplete
  /-- The refresh period ends (R127). -/
  | refreshTick
  /-- The power-down timer expires (R138). -/
  | pdTimerExpiry
  /-- The self refresh timer expires (R142). -/
  | srTimerExpiry
  /-- The minimum residency in power-down ends (R139). -/
  | pdResidencyEnd
  /-- The exit latency of power-down ends (R140). -/
  | pdExitComplete
  /-- The precharge of the open banks in an entry completes (R143). -/
  | bankCloseComplete
  /-- A wake from self refresh or retention ends (R149, R169). -/
  | wakeComplete
  /-- The reset hold of an init ends (R129). -/
  | resetHoldComplete
  /-- The mode setting of an init ends (R129). -/
  | modeSettingComplete
  /-- Training ends; each byte lane has found a working delay or not (R130). -/
  | trainingComplete (lane0 lane1 : Bool)
  /-- The sample timer expires; the conversion delivered this result in °C, or none (R151). -/
  | thermalSample (result : Option Int)
  /-- A loss window passes with no reference edge (R160). -/
  | lossWindowExpiry
  /-- An edge arrives on the reference input (R160). -/
  | refEdge
  /-- The lock timer reaches 250 µs (R162). -/
  | lockTimerExpiry
  /-- The drain of a retention entry ends (R165). -/
  | retentionDrainEnd
  deriving DecidableEq, Repr

end Sys2Proof
end

