-- ==== Sys2Proof/Machine/State.lean ====
section
/-! DEFINITION. The state of the LSH-4, as plain data: every item the manual gives its nine blocks, the DRAM,
the pins, and the queue of commands that wait. -/

namespace Sys2Proof.Machine

/-! ### Tables by port -/

/-- One item for each of the four ports. -/
structure PerPort (α : Type) where
  a : α
  b : α
  c : α
  d : α
  deriving DecidableEq, Repr

/-! ### Timers -/

/-- A running timer: its duration and the moment at which it expires, in ns (log 3). -/
structure Timer where
  duration : Nat
  deadline : Nat
  deriving DecidableEq, Repr

/-! ### Frames and the Link Unit (chapter 1) -/

/-- A frame without its start marker, length and CRC, which its bytes determine (R184). -/
structure Frame where
  kind : Byte
  tagByte : Byte
  payload : List Byte
  deriving DecidableEq, Repr

/-- The four states of a receiver (section 1.3). -/
inductive RxMode where
  | hunt | header | payload | check
  deriving DecidableEq, Repr

/-- A receiver: its state, the bytes of the frame in reception after the start marker, and the gap timer (R4 to R7). -/
structure Receiver where
  mode : RxMode
  got : List Byte
  gap : Option Timer
  deriving DecidableEq, Repr

/-- Why a frame is bad (R8). -/
inductive NakCause where
  | overlength | badCrc | gap
  deriving DecidableEq, Repr

/-- An entry of the in-flight table: free, or in flight with the session its request was taken under (section 1.4). -/
inductive InFlight where
  | free
  | taken (session : Option SessNo)
  deriving DecidableEq, Repr

/-- The classes of frames in the response list (R15). -/
inductive RespClass where
  | reply | refuse | nak
  deriving DecidableEq, Repr

/-- A frame of the response list; `restart` marks the OK of RESTART, whose sending begins the restart (R171). -/
structure Response where
  cls : RespClass
  frame : Frame
  restart : Bool
  deriving DecidableEq, Repr

/-- The frame a transmitter is sending; `restart` as in `Response`. -/
structure Transmission where
  frame : Frame
  restart : Bool
  deriving DecidableEq, Repr

/-- A Link Unit (R17 lists its items). -/
structure Link where
  rx : Receiver
  badFrames : Nat
  inFlight : Vector InFlight 8
  cache : Vector (Option Frame) 8
  credit : Nat
  responses : List Response
  tx : Option Transmission
  deriving DecidableEq, Repr

/-! ### Sessions (chapter 2) -/

/-- CLOSED, OPEN, or CLOSING with the tag of the LEAVE that drains (section 2.1, R25). -/
inductive SessionState where
  | closed
  | opened
  | closing (leaveTag : Tag)
  deriving DecidableEq, Repr

/-- The session record of a port (section 2.1). -/
structure Session where
  state : SessionState
  number : SessNo
  label : Option (List Byte)
  silence : Option Timer
  deriving DecidableEq, Repr

/-- The causes of a session loss (section 2.8). -/
inductive LossCause where
  | linkFault | silence | evicted | rehello
  deriving DecidableEq, Repr

/-- The causes of the last reset, in the boot record (section 2.1). -/
inductive ResetCause where
  | powerOn | pin | command
  deriving DecidableEq, Repr

/-! ### Parameters (section 2.9) -/

inductive PagePolicy where
  | opened | closed
  deriving DecidableEq, Repr

inductive PdExit where
  | fast | slow
  deriving DecidableEq, Repr

inductive ResumePolicy where
  | auto | supervised
  deriving DecidableEq, Repr

/-- The Parameter Table. -/
structure Params where
  keepaliveMs : Nat
  acceptWindowMs : Nat
  priority : PerPort Nat
  pagePolicy : PagePolicy
  pdIdle100ns : Nat
  srIdleMs : Nat
  pdExit : PdExit
  refreshHighWater : Nat
  warmThreshold : Nat
  hotThreshold : Nat
  resumePolicy : ResumePolicy
  deriving DecidableEq, Repr

/-! ### Regions (chapters 3 to 5) -/

inductive Mode where
  | exclusive | shared
  deriving DecidableEq, Repr

inductive LossAction where
  | fence | free
  deriving DecidableEq, Repr

/-- The region states (R49). -/
inductive RegionState where
  | free | offered | exclusive | shared | recalling | fenced
  deriving DecidableEq, Repr

/-- A lease. `pendingRelease` holds the tags of the RELEASEs that wait, oldest first: the lease is marked pending release
while there is one (R71), and a revoke-pending holder can add more (R82); `revokePending` (R81); `lost` (R90). -/
structure Holder where
  port : Port
  session : SessNo
  mode : Mode
  pendingRelease : List Tag
  revokePending : Bool
  lost : Bool
  deriving DecidableEq, Repr

/-- The offer of a region (R63); its deadline in ns. -/
structure Offer where
  port : Port
  session : SessNo
  mode : Mode
  deadline : Nat
  deriving DecidableEq, Repr

/-- A claim in a wait queue (R57). -/
structure Claim where
  port : Port
  session : SessNo
  mode : Mode
  priority : Nat
  deriving DecidableEq, Repr

/-- A defined region (section 3.1). The holders, a set, stand in port order; the recall deadline is in ns. -/
structure Region where
  basePage : Nat
  pageCount : Nat
  label : Option (List Byte)
  sharedAllowed : Bool
  recallMs : Nat
  lossAction : LossAction
  state : RegionState
  epoch : Word16
  holders : List Holder
  offer : Option Offer
  recallDeadline : Option Nat
  queue : List Claim
  deriving DecidableEq, Repr

/-! ### Requests and transactions (chapter 6) -/

/-- The 24 request kinds (section 12.1). -/
inductive Kind where
  | hello | leave | ping | status | setParam | getParam | defineRegion | alterRegion
  | deleteRegion | queryRegion | claim | accept | withdraw | release | revoke | unfence
  | read | write | fill | reinit | resume | clearSuspect | restart | evictPort
  deriving DecidableEq, Repr

/-- Where a reply goes: the port, the tag and the session its request was taken under, and the kind it answers (R11). -/
structure ReplyTo where
  port : Port
  tag : Tag
  session : Option SessNo
  kind : Kind
  deriving DecidableEq, Repr

/-- A request a Link Unit has taken (R10, step 5). -/
structure Request where
  replyTo : ReplyTo
  tagByte : Byte
  payload : List Byte
  deriving DecidableEq, Repr

inductive TxKind where
  | read | write | fill
  deriving DecidableEq, Repr

/-- A stop order on a transaction (R103). -/
inductive StopOrder where
  | revoked | retaining | silent
  deriving DecidableEq, Repr

/-- An entry of a FIFO (R103). Its bursts are those of R105 in order: the first `done` are complete, the next is
issued if `issued`, the others wait (log 27). -/
structure Entry where
  tag : Tag
  session : SessNo
  kind : TxKind
  region : RegionId
  epoch : Word16
  start : Nat
  length : Nat
  data : List Byte
  pattern : Byte
  done : Nat
  issued : Bool
  readData : List Byte
  stop : Option StopOrder
  deriving DecidableEq, Repr

/-- An end report the Engine has sent and the Directory has not yet taken (R111). -/
structure EndReport where
  port : Port
  session : SessNo
  region : RegionId
  count : Nat
  deriving DecidableEq, Repr

/-! ### Notices (chapter 11) -/

inductive Band where
  | normal | warm | hot | unknown
  deriving DecidableEq, Repr

/-- The conditions a MEMORY notice carries (R177). -/
inductive MemoryNotice where
  | freshByReinit | retained | suspect
  deriving DecidableEq, Repr

/-- The causes a FAULT notice carries (R177). -/
inductive FaultCause where
  | initFailed | refreshOverrun | sensor
  deriving DecidableEq, Repr

/-- A notice as posted: its kind and the fields fixed at posting (R177). -/
inductive Notice where
  | offer (region : RegionId) (mode : Mode) (windowMs : Nat)
  | lapsed (region : RegionId)
  | yield (region : RegionId) (remainingMs : Option Nat)
  | yieldCancelled (region : RegionId)
  | revoked (region : RegionId) (epoch : Word16)
  | fenced (region : RegionId) (lostPort : Port)
  | sessionLost (lostPort : Port) (cause : LossCause) (number : SessNo)
  | thermal (band : Band) (reading : Option Int)
  | refLost
  | refRestored
  | memory (condition : MemoryNotice)
  | fault (cause : FaultCause)
  deriving DecidableEq, Repr

/-- The Notice Unit's items for a port (R182). -/
structure Notices where
  queue : List Notice
  lost : Nat
  next : Word16
  deriving DecidableEq, Repr

/-- All that the hub holds for one port: Link Unit, session record, Notice Unit items, FIFO and admission slot. -/
structure PortState where
  link : Link
  session : Session
  notices : Notices
  fifo : List Entry
  slot : Option Request
  deriving DecidableEq, Repr

/-! ### The Memory Sequencer (chapters 7, 8, 10) -/

/-- A record of the bank table: CLOSED, or OPEN on a row (section 7.2). -/
inductive Bank where
  | closed
  | opened (row : Nat)
  deriving DecidableEq, Repr

inductive PdKind where
  | active | prechargeFast | prechargeSlow
  deriving DecidableEq, Repr

/-- A self refresh range (R144). -/
inductive Range where
  | normal | extended
  deriving DecidableEq, Repr

/-- The reason of a retention (section 10.2). -/
inductive RetReason where
  | refLost | restart
  deriving DecidableEq, Repr

/-- The steps of INITIALIZING: those of R129, and before them what an accepted REINIT waits for (R131, R139). -/
inductive InitStep where
  | residency (kind : PdKind)
  | leavePowerDown (kind : PdKind)
  | awaitRefresh
  | resetHold
  | modeSetting
  | training
  deriving DecidableEq, Repr

/-- The steps of ENTERING_SR (R143). -/
inductive EntryStep where
  | leavePowerDown (kind : PdKind)
  | closeBanks
  | payDebt
  deriving DecidableEq, Repr

/-- What an ENTERING_SR leads to: a self refresh entry (R143) or the closing and paying of a retention entry (R165). -/
inductive EntryPurpose where
  | selfRefresh | retention
  deriving DecidableEq, Repr

/-- What a wake leaves (R149). -/
inductive WakeFrom where
  | powerDown (kind : PdKind)
  | selfRefresh
  | retention (range : Range)
  deriving DecidableEq, Repr

inductive WakeTarget where
  | ready | selfRefresh
  deriving DecidableEq, Repr

/-- The DRAM states (R122). -/
inductive DramState where
  | uninitialized
  | initializing (step : InitStep)
  | failed
  | ready
  | powerDown (kind : PdKind)
  | enteringSr (purpose : EntryPurpose) (step : EntryStep)
  | selfRefresh (range : Range)
  | waking (target : WakeTarget) (source : WakeFrom)
  | retention (range : Range) (reason : RetReason)
  deriving DecidableEq, Repr

inductive MemCondition where
  | fresh | retained | suspect
  deriving DecidableEq, Repr

/-- What holds the DRAM: nothing, a burst of a port (which ends with a precharge if `precharge`, R120), a refresh. -/
inductive Bus where
  | free
  | burst (port : Port) (precharge : Bool)
  | refresh
  deriving DecidableEq, Repr

/-- An exit cause kept during the power-down residency (R139): the head of a port, known by its tag, that became
eligible, the high water, or the self refresh timer's expiry. A retention entry that waits is `retEntry`. -/
inductive PdCause where
  | head (port : Port) (tag : Tag)
  | highWater
  | srExpiry
  deriving DecidableEq, Repr

/-- The Memory Sequencer. `opTimer` is the end of the operation in progress where the manual gives its length;
`srRef` the self refresh timer's reference point (R137); `retEntry` a retention entry in progress (R164). -/
structure Sequencer where
  dram : DramState
  banks : Vector Bank 8
  debt : Nat
  urgent : Bool
  overruns : Nat
  condition : MemCondition
  lastServed : Port
  bus : Bus
  opTimer : Option Timer
  tick : Timer
  idle : Bool
  pdTimer : Option Timer
  srTimer : Option Timer
  srRef : Option Nat
  residency : Option Timer
  kept : List PdCause
  retEntry : Option RetReason
  reinit : Option ReplyTo
  deriving DecidableEq, Repr

/-- The DRAM's contents: the bytes written since the contents last became unwarranted, addresses strictly rising;
how often they did (log 9); whether pages 0 and 1 hold the training patterns (R130). -/
structure Memory where
  cells : List Host.Cell
  generation : Nat
  trained : Bool
  deriving DecidableEq, Repr

/-! ### Thermal Monitor, Clock Supervisor, warm restart -/

/-- The Thermal Monitor (chapter 9). The sample timer is stopped only while a restart waits for its release (R159). -/
structure Thermal where
  reading : Option Int
  band : Band
  sampleTimer : Option Timer
  converting : Bool
  deriving DecidableEq, Repr

inductive RefState where
  | locking | locked | lost
  deriving DecidableEq, Repr

/-- The Clock Supervisor (R160): the reference state, the lock timer, and the last edge, from which the loss window runs. -/
structure Clock where
  ref : RefState
  lockTimer : Option Timer
  lastEdge : Nat
  deriving DecidableEq, Repr

/-- A warm restart: none, begun with a cause (R172), or reset and waiting for its release (R173). -/
inductive Restart where
  | running
  | begun (cause : ResetCause)
  | awaitingRelease
  deriving DecidableEq, Repr

/-- A level of the RESET# input. -/
inductive Level where
  | low | high
  deriving DecidableEq, Repr

/-- The LSH-4, its DRAM, its pins and the commands that wait for it. -/
structure State where
  now : Nat
  pending : List Instr
  resetPin : Level
  straps : Straps
  restart : Restart
  ports : PerPort PortState
  supervisor : Port
  bootCause : ResetCause
  params : Params
  regions : Vector (Option Region) 32
  retentionHold : Bool
  reports : List EndReport
  seq : Sequencer
  memory : Memory
  thermal : Thermal
  clock : Clock
  deriving DecidableEq, Repr

/-- Why the model stops. The hub itself has no such stop: both faults guard states its rules keep out. -/
inductive Fault where
  /-- READ, WRITE or FILL: the FIFO is full and its admission slot is occupied, where R104 gives a request no place. Safe. Log 22. -/
  | admissionSlotOccupied
  /-- BURST_COMPLETE: the burst lies outside the 268,435,456 bytes of the DRAM (R119). Safe. Log 23. -/
  | burstOutsideDram
  deriving DecidableEq, Repr

/-- Why the model gives a command no meaning. -/
inductive Refusal where
  /-- The command's arm is not written yet. Raised by no arm. Safe. -/
  | notModelled (mnemonic : String)
  deriving DecidableEq, Repr

/-! ### The state after a reset -/

/-- A receiver in HUNT with no frame in reception (R17). -/
def Receiver.idle : Receiver := ⟨.hunt, [], none⟩

/-- A Link Unit after a reset (R17). -/
def Link.reset : Link where
  rx := Receiver.idle
  badFrames := 0
  inFlight := Vector.replicate 8 .free
  cache := Vector.replicate 8 none
  credit := 0
  responses := []
  tx := none

/-- A session record after a reset (R38). -/
def Session.reset : Session := ⟨.closed, 0, none, none⟩

/-- The Notice Unit's items of a port after a reset (R183). -/
def Notices.reset : Notices := ⟨[], 0, 0⟩

/-- All items of a port after a reset (R17, R38, R118, R183). -/
def PortState.reset : PortState := ⟨Link.reset, Session.reset, Notices.reset, [], none⟩

/-- The parameters' reset values (section 2.9, R38). -/
def Params.reset : Params where
  keepaliveMs := 0
  acceptWindowMs := 20
  priority := ⟨1, 1, 1, 1⟩
  pagePolicy := .opened
  pdIdle100ns := 10
  srIdleMs := 100
  pdExit := .fast
  refreshHighWater := 6
  warmThreshold := 85
  hotThreshold := 105
  resumePolicy := .auto

/-- All eight banks CLOSED (R121). -/
def allClosed : Vector Bank 8 := Vector.replicate 8 .closed

/-- The Sequencer after power-on at the moment `now` (R134, R150). -/
def Sequencer.powerOn (now : Nat) : Sequencer where
  dram := .uninitialized
  banks := allClosed
  debt := 0
  urgent := false
  overruns := 0
  condition := .fresh
  lastServed := .d
  bus := .free
  opTimer := none
  tick := ⟨1950, now + 1950⟩
  idle := false
  pdTimer := none
  srTimer := none
  srRef := none
  residency := none
  kept := []
  retEntry := none
  reinit := none

/-- The Thermal Monitor as it starts (R159). -/
def Thermal.started (now : Nat) : Thermal := ⟨none, .unknown, some ⟨1000000, now + 1000000⟩, true⟩

/-- The port that the sampled SUP[1:0] names (R19). -/
def supervisorPort (s : Straps) : Port :=
  if s.sup = 0 then .a else if s.sup = 1 then .b else if s.sup = 2 then .c else .d

/-- The state after power-on with these straps (R175): `now`, the DRAM's `generation` and the waiting commands are given. -/
def State.powerOn (now generation : Nat) (straps : Straps) (pending : List Instr) : State where
  now := now
  pending := pending
  resetPin := .high
  straps := straps
  restart := .running
  ports := ⟨PortState.reset, PortState.reset, PortState.reset, PortState.reset⟩
  supervisor := supervisorPort straps
  bootCause := .powerOn
  params := Params.reset
  regions := Vector.replicate 32 none
  retentionHold := false
  reports := []
  seq := Sequencer.powerOn now
  memory := ⟨[], generation, false⟩
  thermal := Thermal.started now
  clock := ⟨.locking, some ⟨250000, now + 250000⟩, now⟩

/-- The machine right after reset: power-on (R175) at moment 0 with all straps low (log 14) and no command waiting. -/
def State.reset : State := State.powerOn 0 0 ⟨0, false, false⟩ []

end Sys2Proof.Machine
end

