-- ==== Sys2Proof/Machine/Flags.lean ====
section
/-! DEFINITION. The codes and flags of the frames (chapter 12): kinds, statuses, named values, the tag byte, and
the classes of request kinds. -/

namespace Sys2Proof.Machine

/-! ### Ports -/

/-- A port's index (section 5 of the introduction). -/
def Port.index : Port → Nat
  | .a => 0
  | .b => 1
  | .c => 2
  | .d => 3

/-- The port of an index, if there is one. -/
def portOfIndex : Nat → Option Port
  | 0 => some .a
  | 1 => some .b
  | 2 => some .c
  | 3 => some .d
  | _ => none

/-- A port's index as it travels in a field. -/
def portCode (p : Port) : Byte := BitVec.ofNat 8 (Port.index p)

/-- The four ports in index order. -/
def allPorts : List Port := [.a, .b, .c, .d]

/-- The cyclic order of the burst arbiter, beginning with the port after the given one (R123). -/
def cycleAfter : Port → List Port
  | .a => [.b, .c, .d, .a]
  | .b => [.c, .d, .a, .b]
  | .c => [.d, .a, .b, .c]
  | .d => [.a, .b, .c, .d]

/-! ### The tag byte (R184) -/

/-- The tag: bits 0 to 2 of the tag byte. -/
def tagOf (tagByte : Byte) : Tag := ⟨tagByte.toNat % 8, Nat.mod_lt _ (by decide)⟩

/-- Whether any of flag bits 3 to 7 is set. -/
def anyFlag (tagByte : Byte) : Bool := tagByte.toNat / 8 != 0

/-- The tag byte of a frame the hub sends: the tag, and SUSPECT in bit 3. -/
def tagByteOf (tag : Tag) (suspect : Bool) : Byte := BitVec.ofNat 8 (tag.val + if suspect then 8 else 0)

/-! ### Kinds (section 12.1) -/

/-- The code of a request kind. -/
def Kind.code : Kind → Byte
  | .hello => 0x01
  | .leave => 0x02
  | .ping => 0x03
  | .status => 0x04
  | .setParam => 0x05
  | .getParam => 0x06
  | .defineRegion => 0x07
  | .alterRegion => 0x08
  | .deleteRegion => 0x09
  | .queryRegion => 0x0A
  | .claim => 0x0B
  | .accept => 0x0C
  | .withdraw => 0x0D
  | .release => 0x0E
  | .revoke => 0x0F
  | .unfence => 0x10
  | .read => 0x11
  | .write => 0x12
  | .fill => 0x13
  | .reinit => 0x14
  | .resume => 0x15
  | .clearSuspect => 0x16
  | .restart => 0x17
  | .evictPort => 0x18

/-- The code of a reply: the request's plus 0x80 (R184). -/
def Kind.replyCode (k : Kind) : Byte := k.code + 0x80

def creditCode : Byte := 0x1E
def resendCode : Byte := 0x1F
def refuseCode : Byte := 0xF0
def nakCode : Byte := 0xF1
def noticeCode : Byte := 0xF2

/-- Whether a client may send the kind: one of the 24 request kinds, CREDIT or RESEND (R10, step 2). -/
def clientKind (code : Byte) : Bool :=
  (1 ≤ code.toNat && code.toNat ≤ 0x18) || code == creditCode || code == resendCode

/-- The supervisor-only kinds (R20). -/
def Kind.supervisorOnly : Kind → Bool
  | .defineRegion | .alterRegion | .deleteRegion | .setParam | .revoke | .unfence | .reinit | .resume
  | .clearSuspect | .restart | .evictPort => true
  | .hello | .leave | .ping | .status | .getParam | .queryRegion | .claim | .accept | .withdraw | .release
  | .read | .write | .fill => false

/-! ### Statuses (R185) -/

inductive Status where
  | ok | granted | queued | partialDone
  | badFormat | noSession | closing | notSupervisor | badParam
  | noRegion | regionExists | overlap | regionBusy | already | notClaimed | notHeld | noOffer
  | stale | notExclusive | releasing | revoked | outOfRange
  | notReady | retaining | memoryFailed | notLocked | busy
  deriving DecidableEq, Repr

def Status.code : Status → Byte
  | .ok => 0x00
  | .granted => 0x01
  | .queued => 0x02
  | .partialDone => 0x03
  | .badFormat => 0x10
  | .noSession => 0x11
  | .closing => 0x12
  | .notSupervisor => 0x13
  | .badParam => 0x14
  | .noRegion => 0x20
  | .regionExists => 0x21
  | .overlap => 0x22
  | .regionBusy => 0x23
  | .already => 0x24
  | .notClaimed => 0x25
  | .notHeld => 0x26
  | .noOffer => 0x27
  | .stale => 0x30
  | .notExclusive => 0x31
  | .releasing => 0x32
  | .revoked => 0x33
  | .outOfRange => 0x34
  | .notReady => 0x38
  | .retaining => 0x39
  | .memoryFailed => 0x3A
  | .notLocked => 0x3B
  | .busy => 0x3C

/-- The reasons of a REFUSE (section 12.1). -/
inductive RefuseReason where
  | tagBusy | badKind | inFlight | noReply
  deriving DecidableEq, Repr

def RefuseReason.code : RefuseReason → Byte
  | .tagBusy => 0
  | .badKind => 1
  | .inFlight => 2
  | .noReply => 3

/-! ### Named values (section 12.1) -/

def NakCause.code : NakCause → Byte
  | .overlength => 0
  | .badCrc => 1
  | .gap => 2

def Mode.code : Mode → Byte
  | .exclusive => 0
  | .shared => 1

/-- The mode a code names; a code above 1 names none. -/
def modeOf (b : Byte) : Option Mode := if b = 0 then some .exclusive else if b = 1 then some .shared else none

def LossAction.code : LossAction → Byte
  | .fence => 0
  | .free => 1

/-- The loss_action a code names. -/
def lossActionOf (b : Byte) : Option LossAction := if b = 0 then some .fence else if b = 1 then some .free else none

def boolCode (x : Bool) : Byte := if x then 1 else 0

/-- The yes or no a code names (shared_allowed). -/
def boolOf (b : Byte) : Option Bool := if b = 0 then some false else if b = 1 then some true else none

def PagePolicy.value : PagePolicy → Nat
  | .opened => 0
  | .closed => 1

def PdExit.value : PdExit → Nat
  | .fast => 0
  | .slow => 1

def ResumePolicy.value : ResumePolicy → Nat
  | .auto => 0
  | .supervised => 1

def SessionState.code : SessionState → Byte
  | .closed => 0
  | .opened => 1
  | .closing _ => 2

def RegionState.code : RegionState → Byte
  | .free => 0
  | .offered => 1
  | .exclusive => 2
  | .shared => 3
  | .recalling => 4
  | .fenced => 5

def RefState.code : RefState → Byte
  | .locking => 0
  | .locked => 1
  | .lost => 2

def Band.code : Band → Byte
  | .normal => 0
  | .warm => 1
  | .hot => 2
  | .unknown => 3

def MemCondition.code : MemCondition → Byte
  | .fresh => 0
  | .retained => 1
  | .suspect => 2

def MemoryNotice.code : MemoryNotice → Byte
  | .retained => 1
  | .suspect => 2
  | .freshByReinit => 3

def ResetCause.code : ResetCause → Byte
  | .powerOn => 0
  | .pin => 1
  | .command => 2

def LossCause.code : LossCause → Byte
  | .linkFault => 0
  | .silence => 1
  | .evicted => 2
  | .rehello => 3

def FaultCause.code : FaultCause → Byte
  | .initFailed => 0
  | .refreshOverrun => 1
  | .sensor => 2

/-- The DRAM state byte. -/
def DramState.code : DramState → Byte
  | .uninitialized => 0
  | .initializing _ => 1
  | .failed => 2
  | .ready => 3
  | .powerDown _ => 4
  | .enteringSr _ _ => 5
  | .selfRefresh _ => 6
  | .waking _ _ => 7
  | .retention _ _ => 8

def PdKind.code : PdKind → Byte
  | .active => 0
  | .prechargeFast => 1
  | .prechargeSlow => 2

def Range.code : Range → Byte
  | .normal => 0
  | .extended => 1

/-- The DRAM detail byte. -/
def DramState.detail : DramState → Byte
  | .powerDown k => k.code
  | .selfRefresh r => r.code
  | .waking .ready _ => 0
  | .waking .selfRefresh _ => 1
  | .retention r .refLost => r.code
  | .retention r .restart => r.code + 2
  | .uninitialized | .initializing _ | .failed | .ready | .enteringSr _ _ => 0

end Sys2Proof.Machine
end

