-- ==== Sys2Proof/Machine/Operands.lean ====
section
/-! DEFINITION. The payloads of the requests (section 12.2): byte order, labels, and one reader for each layout.
A reader answers none exactly where R186 says the encoding fails. -/

namespace Sys2Proof.Machine

/-! ### Byte order: little-endian (chapter 12) -/

/-- A 16-bit field. -/
def u16 (lo hi : Byte) : Nat := lo.toNat + 256 * hi.toNat

/-- A 32-bit field. -/
def u32 (b0 b1 b2 b3 : Byte) : Nat := b0.toNat + 256 * b1.toNat + 65536 * b2.toNat + 16777216 * b3.toNat

/-- A number as a 16-bit field. -/
def le16 (n : Nat) : List Byte := [BitVec.ofNat 8 n, BitVec.ofNat 8 (n / 256)]

/-- A number as a 32-bit field. -/
def le32 (n : Nat) : List Byte :=
  [BitVec.ofNat 8 n, BitVec.ofNat 8 (n / 256), BitVec.ofNat 8 (n / 65536), BitVec.ofNat 8 (n / 16777216)]

/-- A whole number as an s16 field, two's complement. -/
def leS16 (n : Int) : List Byte := le16 (BitVec.ofInt 16 n).toNat

/-! ### Labels -/

/-- A byte in the printable ASCII range 0x20 to 0x7E (R21, R40). -/
def printable (b : Byte) : Bool := 0x20 ≤ b.toNat && b.toNat ≤ 0x7E

/-- A label of the length its length byte gives, at most 16 printable characters (R186). -/
def labelWellFormed (length : Byte) (label : List Byte) : Bool :=
  label.length == length.toNat && length.toNat ≤ 16 && label.all printable

/-- A label of 0 characters is an absent label (R22, R41, R43). -/
def labelValue (label : List Byte) : Option (List Byte) := if label = [] then none else some label

/-! ### Requests' fields -/

structure HelloFields where
  credit : Nat
  label : List Byte
  deriving DecidableEq, Repr

structure SetParamFields where
  id : Byte
  value : Nat
  deriving DecidableEq, Repr

structure DefineFields where
  id : Byte
  basePage : Nat
  pageCount : Nat
  shared : Byte
  recallMs : Nat
  lossAction : Byte
  label : List Byte
  deriving DecidableEq, Repr

/-- The fields of ALTER_REGION; an absent field is none (R43). -/
structure AlterFields where
  id : Byte
  label : Option (List Byte)
  recallMs : Option Nat
  lossAction : Option Byte
  shared : Option Byte
  deriving DecidableEq, Repr

structure ClaimFields where
  id : Byte
  mode : Byte
  deriving DecidableEq, Repr

/-- The fields of READ, WRITE and FILL; those a kind lacks are empty. -/
structure TxFields where
  id : Byte
  epoch : Word16
  offset : Nat
  length : Nat
  data : List Byte
  pattern : Byte
  deriving DecidableEq, Repr

/-! ### Readers -/

/-- The empty payload. -/
def readEmpty : List Byte → Option Unit
  | [] => some ()
  | _ => none

/-- A payload of one byte: a region id, a parameter id or a port index. -/
def readOne : List Byte → Option Byte
  | [x] => some x
  | _ => none

def readHello : List Byte → Option HelloFields
  | credit :: length :: label => if labelWellFormed length label then some ⟨credit.toNat, label⟩ else none
  | _ => none

def readSetParam : List Byte → Option SetParamFields
  | [id, lo, hi] => some ⟨id, u16 lo hi⟩
  | _ => none

def readDefine : List Byte → Option DefineFields
  | id :: b0 :: b1 :: c0 :: c1 :: c2 :: c3 :: shared :: r0 :: r1 :: loss :: length :: label =>
    if labelWellFormed length label then
      some ⟨id, u16 b0 b1, u32 c0 c1 c2 c3, shared, u16 r0 r1, loss, label⟩
    else none
  | _ => none

/-- ALTER_REGION: no presence bit above 3, and no label characters while bit 0 is clear (R186). -/
def readAlter : List Byte → Option AlterFields
  | id :: presence :: r0 :: r1 :: loss :: shared :: length :: label =>
    if labelWellFormed length label && presence.toNat < 16 && (presence.getLsbD 0 || label == []) then
      some
        { id := id
          label := if presence.getLsbD 0 then some label else none
          recallMs := if presence.getLsbD 1 then some (u16 r0 r1) else none
          lossAction := if presence.getLsbD 2 then some loss else none
          shared := if presence.getLsbD 3 then some shared else none }
    else none
  | _ => none

def readClaim : List Byte → Option ClaimFields
  | [id, mode] => some ⟨id, mode⟩
  | _ => none

def readRead : List Byte → Option TxFields
  | [id, e0, e1, o0, o1, o2, o3, l0, l1] =>
    some ⟨id, BitVec.ofNat 16 (u16 e0 e1), u32 o0 o1 o2 o3, u16 l0 l1, [], 0⟩
  | _ => none

/-- WRITE: its length is that of its data, which are not empty (R98, R186). -/
def readWrite : List Byte → Option TxFields
  | id :: e0 :: e1 :: o0 :: o1 :: o2 :: o3 :: data =>
    if data = [] then none
    else some ⟨id, BitVec.ofNat 16 (u16 e0 e1), u32 o0 o1 o2 o3, data.length, data, 0⟩
  | _ => none

def readFill : List Byte → Option TxFields
  | [id, e0, e1, o0, o1, o2, o3, l0, l1, l2, l3, pattern] =>
    some ⟨id, BitVec.ofNat 16 (u16 e0 e1), u32 o0 o1 o2 o3, u32 l0 l1 l2 l3, [], pattern⟩
  | _ => none

/-- The payload of a transaction request, by its kind. -/
def readTx : TxKind → List Byte → Option TxFields
  | .read => readRead
  | .write => readWrite
  | .fill => readFill

/-- A request's fields, or none where its encoding fails: a flag bit set, or a payload its reader refuses (R186). -/
def Request.fields {α : Type} (r : Request) (reader : List Byte → Option α) : Option α :=
  if anyFlag r.tagByte then none else reader r.payload

/-- The length range of a transaction kind (R97 to R100). -/
def lengthInRange : TxKind → Nat → Bool
  | .read, n => 1 ≤ n && n ≤ 256
  | .write, n => 1 ≤ n && n ≤ 256
  | .fill, n => 1 ≤ n && n ≤ 65536

end Sys2Proof.Machine
end

