-- ==== Sys2Proof/Machine/Receiver.lean ====
section
/-! DEFINITION. Frames as bytes (sections 1.2, 12.1): the CRC, the bytes of a frame on the link, and the receiver. -/

namespace Sys2Proof.Machine

/-- The start marker of a frame. -/
def startMarker : Byte := 0xC3

/-- One bit step of the CRC: shift left, and subtract the generator if a bit left the register (R3, R184). -/
def crcShift (crc : BitVec 16) : BitVec 16 :=
  if crc.msb then (crc <<< 1) ^^^ 0x1021 else crc <<< 1

/-- One byte into the CRC, most significant bit first (R184). -/
def crcByte (crc : BitVec 16) (b : Byte) : BitVec 16 :=
  crcShift (crcShift (crcShift (crcShift (crcShift (crcShift (crcShift (crcShift
    (crc ^^^ (b.setWidth 16 <<< 8)))))))))

/-- The CRC of a run of bytes: generator x^16+x^12+x^5+1, initial value 0xFFFF (R3). -/
def crc16 (bytes : List Byte) : BitVec 16 := bytes.foldl crcByte 0xFFFF

/-- The bytes the CRC is computed over: kind, tag byte, length, payload (R3). -/
def Frame.body (f : Frame) : List Byte := f.kind :: f.tagByte :: (le16 f.payload.length ++ f.payload)

/-- A frame's bytes on the link (R184). -/
def Frame.wire (f : Frame) : List Byte := startMarker :: (f.body ++ le16 (crc16 f.body).toNat)

/-- How a reception ends. -/
inductive RxEvent where
  | good (f : Frame)
  | bad (cause : NakCause)
  deriving DecidableEq, Repr

/-- The payload length in the bytes of a header (R5). -/
def headerLength (got : List Byte) : Nat := u16 (got.getD 2 0) (got.getD 3 0)

/-- The gap timer started at the moment `now`: 200 µs (R7). -/
def gapTimer (now : Nat) : Timer := ⟨200000, now + 200000⟩

/-- The end of CHECK: the received CRC against the computed one (R6). -/
def checkFrame (got : List Byte) : RxEvent :=
  let n := 4 + headerLength got
  if u16 (got.getD n 0) (got.getD (n + 1) 0) = (crc16 (got.take n)).toNat then
    .good ⟨got.getD 0 0, got.getD 1 0, (got.take n).drop 4⟩
  else .bad .badCrc

/-- One byte into the receiver (R4 to R6). -/
def Receiver.feed (now : Nat) (r : Receiver) (b : Byte) : Receiver × Option RxEvent :=
  let got := r.got ++ [b]
  match r.mode with
  | .hunt => if b = startMarker then (⟨.header, [], some (gapTimer now)⟩, none) else (Receiver.idle, none)
  | .header =>
    if got.length < 4 then (⟨.header, got, some (gapTimer now)⟩, none)
    else if 320 < headerLength got then (Receiver.idle, some (.bad .overlength))
    else if headerLength got = 0 then (⟨.check, got, some (gapTimer now)⟩, none)
    else (⟨.payload, got, some (gapTimer now)⟩, none)
  | .payload =>
    if got.length < 4 + headerLength got then (⟨.payload, got, some (gapTimer now)⟩, none)
    else (⟨.check, got, some (gapTimer now)⟩, none)
  | .check =>
    if got.length < 6 + headerLength got then (⟨.check, got, some (gapTimer now)⟩, none)
    else (Receiver.idle, some (checkFrame got))

/-- Bytes into the receiver, one after another: where they leave it, and the frames that end among them in order. Each
byte after the end of a frame is taken in HUNT, where a start marker begins the next frame (R4). -/
def Receiver.hear (now : Nat) : Receiver → List Byte → Receiver × List RxEvent
  | r, [] => (r, [])
  | r, b :: rest =>
    let (r', e) := r.feed now b
    let (r'', es) := Receiver.hear now r' rest
    (r'', e.toList ++ es)

/-- Whether the end of a frame is what a frame command stands for: a bad frame, or the good frame it carries. -/
def RxEvent.fits (f : Option Frame) : RxEvent → Bool
  | .bad _ => true
  | .good g => decide (f = some g)

end Sys2Proof.Machine
end

