-- ==== Sys2Proof/WellFormed.lean ====
section
/-! DEFINITION. Which commands are well formed: what the link can present as the event the command names.
The hub's own checks (BAD_FORMAT, BAD_PARAM and the rest) are part of the commands' meaning, not of this. -/

namespace Sys2Proof

open Machine

/-- A frame's payload has at most 320 bytes (R5). -/
def payloadFits (payload : List Byte) : Bool := payload.length ≤ 320

/-- The bytes, from a receiver in HUNT, end one frame, a bad one (R5, R6). -/
def endsBad (bytes : List Byte) : Bool :=
  match (Receiver.idle.hear 0 bytes).2 with
  | [.bad _] => true
  | _ => false

/-- The bytes leave a frame in reception (R7): from a receiver in HUNT they begin a frame and end none, and with no
bytes at all it is the frame that an earlier command's bytes began. -/
def leavesInReception (bytes : List Byte) : Bool :=
  bytes.isEmpty ||
    (match Receiver.idle.hear 0 bytes with
    | (r, []) => r.mode != .hunt
    | _ => false)

/-- Whether a command is well formed. -/
def Instr.wellFormed : Instr → Bool
  | .gapTimeout _ bytes => leavesInReception bytes
  | .badFrame _ bytes => endsBad bytes
  | .badKindFrame _ kind _ payload => payloadFits payload && !clientKind kind
  | .credit _ _ payload | .resend _ _ payload | .hello _ _ payload | .leave _ _ payload | .ping _ _ payload
  | .status _ _ payload | .setParam _ _ payload | .getParam _ _ payload | .defineRegion _ _ payload
  | .alterRegion _ _ payload | .deleteRegion _ _ payload | .queryRegion _ _ payload | .claim _ _ payload
  | .accept _ _ payload | .withdraw _ _ payload | .release _ _ payload | .revoke _ _ payload
  | .unfence _ _ payload | .read _ _ payload | .write _ _ payload | .fill _ _ payload | .reinit _ _ payload
  | .resume _ _ payload | .clearSuspect _ _ payload | .restart _ _ payload | .evictPort _ _ payload =>
    payloadFits payload
  | .powerOn _ | .resetAsserted | .warmRestartReset _ | .resetReleased _ | .frameTransmitted _
  | .silenceTimeout _ | .leaveDrainEnd _ | .offerDeadlineExpiry _ | .recallDeadlineExpiry _
  | .transactionEndReport | .admissionSlotRelease _ | .burstComplete | .refreshComplete | .refreshTick
  | .pdTimerExpiry | .srTimerExpiry | .pdResidencyEnd | .pdExitComplete | .bankCloseComplete | .wakeComplete
  | .resetHoldComplete | .modeSettingComplete | .trainingComplete _ _ | .thermalSample _ | .lossWindowExpiry
  | .refEdge | .lockTimerExpiry | .retentionDrainEnd => true

end Sys2Proof
end

