-- ==== Sys2Proof/Machine/Memory.lean ====
section
/-! DEFINITION. The DRAM's bytes: 28-bit addresses (R119), reading, writing, and what makes the contents
unwarranted. A byte that is not listed has no value of its own; what a READ finds there is a free value (log 9). -/

namespace Sys2Proof.Machine

/-- The DRAM has 256 MiB: byte addresses 0 to 268,435,455 (section 7.1). -/
def dramSize : Nat := 268435456

/-- The cell of an address, if it is listed. -/
def findCell (a : Nat) : List Host.Cell → Option Byte
  | [] => none
  | (b, v) :: rest => if a = b then some v else findCell a rest

/-- The cell put in its place by address, in place of one with the same address. -/
def insertCell (a : Nat) (v : Byte) : List Host.Cell → List Host.Cell
  | [] => [(a, v)]
  | (b, w) :: rest =>
    if a < b then (a, v) :: (b, w) :: rest
    else if a = b then (a, v) :: rest
    else (b, w) :: insertCell a v rest

/-- The byte last written to the address since the contents became unwarranted; none if nothing was. -/
def Memory.stored (m : Memory) (a : Nat) : Option Byte := findCell a m.cells

/-- What a byte reads as that is not listed: the training pattern on pages 0 and 1 after training (R130, log 10),
else a free value (log 9). -/
def Memory.unlisted (m : Memory) (a : Nat) : Byte :=
  if m.trained && a < 8192 then Config.trainingByte a else Config.unwrittenByte m.generation a

/-- One byte of the DRAM. -/
def Memory.read (m : Memory) (a : Nat) : Byte := (m.stored a).getD (m.unlisted a)

/-- A run of bytes, in address order. -/
def Memory.readRun (m : Memory) (a : Nat) : Nat → List Byte
  | 0 => []
  | n + 1 => m.read a :: m.readRun (a + 1) n

/-- One byte written. -/
def Memory.write (m : Memory) (a : Nat) (v : Byte) : Memory := { m with cells := insertCell a v m.cells }

/-- A run of bytes written, in address order. -/
def Memory.writeRun (m : Memory) (a : Nat) : List Byte → Memory
  | [] => m
  | v :: rest => (m.write a v).writeRun (a + 1) rest

/-- The contents at the start of an init: no byte is warranted to keep its value (R130). -/
def Memory.unwarranted (m : Memory) : Memory := ⟨[], m.generation + 1, false⟩

/-- The contents once the training patterns are written to pages 0 and 1 (R129, step 3). -/
def Memory.withPatterns (m : Memory) : Memory := { m with trained := true }

/-- The contents after rows may have lost charge (R128, R158, R167): each byte a free value (log 11). -/
def Memory.losingCharge (m : Memory) : Memory :=
  ⟨m.cells.map fun c => (c.1, Config.chargeLoss (m.generation + 1) c.1 c.2), m.generation + 1, false⟩

/-- Addresses strictly rising, from `low` on, and inside the DRAM. -/
def cellsWf : Nat → List Host.Cell → Bool
  | _, [] => true
  | low, (a, _) :: rest => low ≤ a && a < dramSize && cellsWf (a + 1) rest

/-- The canonical form: strictly rising addresses inside the DRAM. An unlisted address has no stored value, so no
entry can equal one. -/
def Memory.wf (m : Memory) : Bool := cellsWf 0 m.cells

end Sys2Proof.Machine
end

