-- ==== Sys2Proof/Machine/Replies.lean ====
section
/-! DEFINITION. The frames the hub sends (sections 12.3 and 12.4): replies, REFUSE, NAK and NOTICE. -/

namespace Sys2Proof.Machine

/-- A number as an 8-bit field. -/
def u8 (n : Nat) : Byte := BitVec.ofNat 8 n

/-- Whole milliseconds to a deadline, rounded up (R48, R177). -/
def msRemaining (now deadline : Nat) : Nat := (deadline - now + 999999) / 1000000

/-- An optional time remaining; 0xFFFF stands for an absent time. -/
def timeField : Option Nat → List Byte
  | some ms => le16 ms
  | none => [0xFF, 0xFF]

/-- An optional temperature reading; 0x7FFF stands for an absent reading. -/
def readingField : Option Int → List Byte
  | some t => leS16 t
  | none => [0xFF, 0x7F]

/-- A label's length byte and 16 bytes padded with 0x00. -/
def labelField (label : Option (List Byte)) : List Byte :=
  let bytes := label.getD []
  u8 bytes.length :: (bytes ++ List.replicate (16 - bytes.length) 0)

/-- A reply frame: the request's kind plus 0x80, its tag, and the SUSPECT flag (R184). -/
def replyFrame (rt : ReplyTo) (suspect : Bool) (payload : List Byte) : Frame :=
  ⟨rt.kind.replyCode, tagByteOf rt.tag suspect, payload⟩

def refuseFrame (tag : Tag) (reason : RefuseReason) : Frame := ⟨refuseCode, tagByteOf tag false, [reason.code]⟩

def nakFrame (count : Nat) (cause : NakCause) : Frame := ⟨nakCode, 0, [u8 count, cause.code]⟩

/-- A notice's kind code. -/
def Notice.code : Notice → Byte
  | .offer _ _ _ => 0x01
  | .lapsed _ => 0x02
  | .yield _ _ => 0x03
  | .yieldCancelled _ => 0x04
  | .revoked _ _ => 0x05
  | .fenced _ _ => 0x06
  | .sessionLost _ _ _ => 0x07
  | .thermal _ _ => 0x08
  | .refLost => 0x09
  | .refRestored => 0x0A
  | .memory _ => 0x0B
  | .fault _ => 0x0C

/-- The fields after the lost count. -/
def Notice.fields : Notice → List Byte
  | .offer r m w => [u8 r.val, m.code] ++ le16 w
  | .lapsed r => [u8 r.val]
  | .yield r t => u8 r.val :: timeField t
  | .yieldCancelled r => [u8 r.val]
  | .revoked r e => u8 r.val :: le16 e.toNat
  | .fenced r p => [u8 r.val, portCode p]
  | .sessionLost p c n => [portCode p, c.code, n]
  | .thermal b t => b.code :: readingField t
  | .refLost => []
  | .refRestored => []
  | .memory c => [c.code]
  | .fault c => [c.code]

/-- A notice frame with the sequence number and lost count it takes at delivery (R180). -/
def noticeFrame (number : Word16) (lost : Nat) (n : Notice) : Frame :=
  ⟨noticeCode, 0, n.code :: (le16 number.toNat ++ u8 lost :: n.fields)⟩

/-! ### Success payloads -/

def okPayload : List Byte := [Status.ok.code]

/-- GRANTED, or the OK of ACCEPT and UNFENCE: a status and the epoch. -/
def epochPayload (st : Status) (epoch : Word16) : List Byte := st.code :: le16 epoch.toNat

/-- FILL OK: the byte count. -/
def fillPayload (count : Nat) : List Byte := Status.ok.code :: le32 count

/-- FILL PARTIAL: the bytes done, and the cause as a status code. -/
def partialPayload (done : Nat) (cause : Status) : List Byte := Status.partialDone.code :: (le32 done ++ [cause.code])

end Sys2Proof.Machine
end

