-- ==== Sys2Proof/Machine/Ops.lean ====
section
/-! DEFINITION. The operations the units share: the tables by port and region, time, the Link Unit's hand-overs and
arbiter (R11, R15), and the Notice Unit's posting (R176 to R180). -/

namespace Sys2Proof.Machine

/-! ### Tables -/

def PerPort.get {α : Type} (t : PerPort α) : Port → α
  | .a => t.a
  | .b => t.b
  | .c => t.c
  | .d => t.d

def PerPort.set {α : Type} (t : PerPort α) (p : Port) (x : α) : PerPort α :=
  match p with
  | .a => { t with a := x }
  | .b => { t with b := x }
  | .c => { t with c := x }
  | .d => { t with d := x }

/-- What the hub holds for a port. -/
def State.port (s : State) (p : Port) : PortState := s.ports.get p

def State.setPort (s : State) (p : Port) (x : PortState) : State := { s with ports := s.ports.set p x }

def State.setLink (s : State) (p : Port) (x : Link) : State := s.setPort p { s.port p with link := x }

def State.setSession (s : State) (p : Port) (x : Session) : State := s.setPort p { s.port p with session := x }

def State.setNotices (s : State) (p : Port) (x : Notices) : State := s.setPort p { s.port p with notices := x }

def State.setFifo (s : State) (p : Port) (x : List Entry) : State := s.setPort p { s.port p with fifo := x }

def State.setSlot (s : State) (p : Port) (x : Option Request) : State := s.setPort p { s.port p with slot := x }

def State.link (s : State) (p : Port) : Link := (s.port p).link

def State.session (s : State) (p : Port) : Session := (s.port p).session

def State.notices (s : State) (p : Port) : Notices := (s.port p).notices

def State.fifo (s : State) (p : Port) : List Entry := (s.port p).fifo

def State.slot (s : State) (p : Port) : Option Request := (s.port p).slot

/-- The record of a slot of the region table; none while it is undefined (section 3.1). -/
def State.region (s : State) (id : RegionId) : Option Region := s.regions[id.val]

def State.setRegion (s : State) (id : RegionId) (r : Option Region) : State :=
  { s with regions := s.regions.set id.val r id.isLt }

/-- The region ids in order. -/
def allRegions : List RegionId := List.finRange 32

/-- The in-flight entry of a tag. -/
def Link.entry (l : Link) (t : Tag) : InFlight := l.inFlight[t.val]

/-- The in-flight table with the entry of a tag replaced. -/
def Link.withEntry (l : Link) (t : Tag) (x : InFlight) : Vector InFlight 8 := l.inFlight.set t.val x t.isLt

/-- The reply cache's slot of a tag. -/
def Link.cached (l : Link) (t : Tag) : Option Frame := l.cache[t.val]

/-- The reply cache with a reply in the slot of a tag. -/
def Link.withCached (l : Link) (t : Tag) (f : Frame) : Vector (Option Frame) 8 := l.cache.set t.val (some f) t.isLt

/-- An empty in-flight table, and an empty reply cache (R17). -/
def allFree : Vector InFlight 8 := Vector.replicate 8 .free

def noReplies : Vector (Option Frame) 8 := Vector.replicate 8 none

/-! ### Time -/

/-- A timer started now. -/
def State.timer (s : State) (duration : Nat) : Timer := ⟨duration, s.now + duration⟩

/-- Milliseconds in ns. -/
def ms (n : Nat) : Nat := n * 1000000

/-! ### Sessions -/

/-- Whether a session is OPEN or CLOSING: an open session, in the wide sense of R176. -/
def Session.live (x : Session) : Bool :=
  match x.state with
  | .closed => false
  | .opened => true
  | .closing _ => true

/-- The port's present session: its number, or none if the port is CLOSED (R11). -/
def State.presentSession (s : State) (p : Port) : Option SessNo :=
  if (s.session p).live then some (s.session p).number else none

/-- Whether the hub runs: no warm restart has begun, and none waits for its release (R172, R173). -/
def State.isRunning (s : State) : Bool := decide (s.restart = .running)

/-! ### The transmitter's arbiter (R15) -/

/-- The notice at the head of the queue begins to be sent: its number, its lost count, one credit (R180). -/
def sendNotice (s : State) (p : Port) (n : Notice) (rest : List Notice) : State :=
  (s.setNotices p ⟨rest, 0, (s.notices p).next + 1⟩).setLink p
    { s.link p with
      credit := (s.link p).credit - 1
      tx := some ⟨noticeFrame (s.notices p).next (s.notices p).lost n, false⟩ }

/-- The arbiter of a port: with no frame in progress, the oldest response, else a notice if there is credit.
From the beginning of a warm restart to its release no frame is begun (R172, R173). -/
def arbitrate (s : State) (p : Port) : State :=
  if s.isRunning then
    match (s.link p).tx with
    | some _ => s
    | none =>
      match (s.link p).responses with
      | r :: rest => s.setLink p { s.link p with responses := rest, tx := some ⟨r.frame, r.restart⟩ }
      | [] =>
        match (s.notices p).queue with
        | n :: rest => if 0 < (s.link p).credit then sendNotice s p n rest else s
        | [] => s
  else s

/-! ### Hand-overs to the Link Unit -/

/-- REFUSE and NAK frames that wait (R15). -/
def refusalsWaiting (l : Link) : Nat := l.responses.countP fun r => decide (r.cls ≠ .reply)

/-- A REFUSE or NAK handed over: dropped while 16 wait (R15). -/
def handRefusal (s : State) (p : Port) (cls : RespClass) (f : Frame) : State :=
  if refusalsWaiting (s.link p) < 16 then
    arbitrate (s.setLink p { s.link p with responses := (s.link p).responses ++ [⟨cls, f, false⟩] }) p
  else s

/-- A REFUSE handed over. -/
def refuse (s : State) (p : Port) (tag : Tag) (reason : RefuseReason) : State :=
  handRefusal s p .refuse (refuseFrame tag reason)

/-- Whether the Link Unit accepts a reply: the entry is in flight under the reply's session, and that is the
port's present session (R11). -/
def acceptsReply (s : State) (r : ReplyTo) : Bool :=
  decide ((s.link r.port).entry r.tag = .taken r.session) && decide (s.presentSession r.port = r.session)

/-- A reply handed over: accepted, freed, cached and put in line, or discarded (R11). -/
def handReply (s : State) (r : ReplyTo) (suspect restart : Bool) (payload : List Byte) : State :=
  if acceptsReply s r then
    arbitrate
      (s.setLink r.port
        { s.link r.port with
          inFlight := (s.link r.port).withEntry r.tag .free
          cache := (s.link r.port).withCached r.tag (replyFrame r suspect payload)
          responses := (s.link r.port).responses ++ [⟨.reply, replyFrame r suspect payload, restart⟩] })
      r.port
  else s

/-- A reply with a payload, no SUSPECT flag, and no restart to follow. -/
def reply (s : State) (r : ReplyTo) (payload : List Byte) : State := handReply s r false false payload

/-- A reply that is a status alone (R185). -/
def answer (s : State) (r : ReplyTo) (st : Status) : State := reply s r [st.code]

/-! ### Posting notices -/

/-- Whether a YIELD for the region stands in the queue (R178, step 1). -/
def holdsYield (q : List Notice) (id : RegionId) : Bool :=
  q.any fun n => match n with
    | .yield r _ => decide (r = id)
    | _ => false

/-- Whether the notice is a THERMAL. -/
def Notice.isThermal : Notice → Bool
  | .thermal _ _ => true
  | _ => false

/-- A notice into a queue: coalesced, replacing a THERMAL, appended, or dropped (R178, R179). -/
def Notices.enqueue (q : Notices) (n : Notice) : Notices :=
  let append : Notices :=
    if q.queue.length < 16 then { q with queue := q.queue ++ [n] } else { q with lost := min 255 (q.lost + 1) }
  match n with
  | .yield r _ => if holdsYield q.queue r then q else append
  | .thermal _ _ =>
    if q.queue.any Notice.isThermal then
      { q with queue := q.queue.map fun x => if x.isThermal then n else x }
    else append
  | _ => append

/-- A notice posted to a port: accepted while its session is OPEN or CLOSING (R176), and while no warm restart has
begun (R172). -/
def post (s : State) (p : Port) (n : Notice) : State :=
  if s.isRunning && (s.session p).live then arbitrate (s.setNotices p ((s.notices p).enqueue n)) p else s

/-- A notice posted to every port with an open session. -/
def postAll (s : State) (n : Notice) : State := allPorts.foldl (fun t p => post t p n) s

/-- A notice for the supervisor alone (R20). -/
def postSupervisor (s : State) (n : Notice) : State := post s s.supervisor n

/-- A notice to an entry of a region's record: only to the port's present session, and not to a lost lease (R75). -/
def postEntry (s : State) (p : Port) (n : SessNo) (lost : Bool) (notice : Notice) : State :=
  if !lost && decide (s.presentSession p = some n) then post s p notice else s

end Sys2Proof.Machine
end

