-- ==== Sys2Proof/Machine/Engine.lean ====
section
/-! DEFINITION. The Transaction Engine (chapter 6): bursts, the ends of transactions and their reports, and
cancellation. -/

namespace Sys2Proof.Machine

/-! ### Bursts (R105) -/

/-- How many bursts a transaction has: the 16-byte blocks its range touches. -/
def Entry.bursts (e : Entry) : Nat := (e.start % 16 + e.length + 15) / 16

/-- The DRAM address of the block of the burst that follows the first `i`. -/
def Entry.blockAddr (e : Entry) (i : Nat) : Nat := (e.start / 16 + i) * 16

/-- The byte counts of the first `n` bursts together: how much of the range they cover. -/
def Entry.bytesIn (e : Entry) (n : Nat) : Nat := min (e.start + e.length) (e.blockAddr n) - e.start

/-- The first address of the next burst's mask. -/
def Entry.burstStart (e : Entry) : Nat := e.start + e.bytesIn e.done

/-- The byte count of the next burst. -/
def Entry.burstBytes (e : Entry) : Nat := e.bytesIn (e.done + 1) - e.bytesIn e.done

/-- The bytes that the next burst of a WRITE or FILL stores (R105). -/
def Entry.burstData (e : Entry) : List Byte :=
  match e.kind with
  | .read => []
  | .write => (e.data.drop (e.bytesIn e.done)).take e.burstBytes
  | .fill => List.replicate e.burstBytes e.pattern

/-- Whether the first burst has been issued (R106). -/
def Entry.started (e : Entry) : Bool := e.issued || 0 < e.done

/-- The request kind of a transaction. -/
def TxKind.kind : TxKind → Kind
  | .read => .read
  | .write => .write
  | .fill => .fill

/-- Where the reply of a transaction goes. -/
def Entry.replyTo (e : Entry) (p : Port) : ReplyTo := ⟨p, e.tag, some e.session, e.kind.kind⟩

/-- How many entries of the port's FIFO refer to the region, of any session (R111). -/
def countOn (s : State) (p : Port) (id : RegionId) : Nat := (s.fifo p).countP fun e => decide (e.region = id)

/-! ### Ends of a transaction -/

/-- The end report (R111). From the beginning of a warm restart none is made (R115). -/
def report (s : State) (p : Port) (e : Entry) : State :=
  if s.isRunning then
    { s with reports := s.reports ++ [⟨p, e.session, e.region, countOn s p e.region⟩] }
  else s

/-- The self refresh timer's reference point moves at the end of a transaction that had issued a burst (R137). -/
def markQuiet (s : State) (e : Entry) : State :=
  if e.started then { s with seq := { s.seq with srRef := some s.now } } else s

/-- The end of an entry that has left its FIFO: its reply, if any, and then its report (section 6.5). -/
def endEntry (s : State) (p : Port) (e : Entry) (payload : Option (List Byte)) (suspect : Bool) : State :=
  let t := match payload with
    | some x => handReply s (e.replyTo p) suspect false x
    | none => s
  report (markQuiet t e) p e

/-- The status that a stop order gives as a cause; SILENT gives no reply. -/
def StopOrder.cause : StopOrder → Option Status
  | .revoked => some .revoked
  | .retaining => some .retaining
  | .silent => none

/-- The reply of a FILL cut at a burst boundary (R110). -/
def Entry.cutPayload (e : Entry) : Option (List Byte) :=
  match e.stop with
  | some o => o.cause.map fun c => partialPayload (e.bytesIn e.done) c
  | none => none

/-- The reply of a transaction whose last burst has completed (R109): none under SILENT. -/
def Entry.donePayload (e : Entry) : Option (List Byte) :=
  if e.stop = some .silent then none
  else match e.kind with
    | .read => some (Status.ok.code :: e.readData)
    | .write => some okPayload
    | .fill => some (fillPayload e.length)

/-- A stop order on a started entry: the first stays, and SILENT replaces any (R116). -/
def Entry.withStop (e : Entry) (o : StopOrder) : Entry :=
  match o, e.stop with
  | .silent, _ => { e with stop := some .silent }
  | _, some _ => e
  | o, none => { e with stop := some o }

/-! ### Cancellation (section 6.6) -/

/-- A stop order on the port's started entry, if `sel` picks it. A FILL with no burst issued stops at once (R110). -/
def stopStarted (s : State) (p : Port) (o : StopOrder) (sel : Entry → Bool) : State :=
  match s.fifo p with
  | [] => s
  | e :: rest =>
    if e.started && sel e then
      let e' := e.withStop o
      if e.kind = .fill && !e.issued then endEntry (s.setFifo p rest) p e' e'.cutPayload false
      else s.setFifo p (e' :: rest)
    else s

/-- The entries of a FIFO that `hit` picks are removed in order, each with this reply or none, and reported. -/
def cancelFrom (p : Port) (hit : Entry → Bool) (payload : Option (List Byte)) : List Entry → List Entry → State → State
  | _, [], s => s
  | kept, e :: rest, s =>
    if hit e then cancelFrom p hit payload kept rest (endEntry (s.setFifo p (kept ++ rest)) p e payload false)
    else cancelFrom p hit payload (kept ++ [e]) rest s

/-- The port's not-started entries that `sel` picks are cancelled. -/
def cancelWaiting (s : State) (p : Port) (payload : Option (List Byte)) (sel : Entry → Bool) : State :=
  cancelFrom p (fun e => !e.started && sel e) payload [] (s.fifo p) s

/-- Revocation of a holder: its entries on the region (R112). -/
def revokeEntries (s : State) (p : Port) (n : SessNo) (id : RegionId) : State :=
  let sel := fun e : Entry => decide (e.region = id) && decide (e.session = n)
  cancelWaiting (stopStarted s p .revoked sel) p (some [Status.revoked.code]) sel

/-- Loss of a session: its entries and the port's admission slot (R114). -/
def loseEntries (s : State) (p : Port) (n : SessNo) : State :=
  let sel := fun e : Entry => decide (e.session = n)
  cancelWaiting (stopStarted (s.setSlot p none) p .silent sel) p none sel

/-- Retention entry for a reference loss, on one port (R113). -/
def retainEntries (s : State) (p : Port) : State :=
  cancelWaiting (stopStarted s p .retaining fun e => decide (e.kind = .fill)) p (some [Status.retaining.code])
    fun _ => true

/-- Retention entry for a reference loss, on every port. -/
def retainAll (s : State) : State := allPorts.foldl retainEntries s

/-- A warm restart, on one port (R115). -/
def silenceEntries (s : State) (p : Port) : State :=
  cancelWaiting (stopStarted (s.setSlot p none) p .silent fun _ => true) p none fun _ => true

/-- A warm restart, on every port. -/
def silenceAll (s : State) : State := allPorts.foldl silenceEntries s

/-- Whether a port has a started entry. -/
def hasStarted (s : State) (p : Port) : Bool := (s.fifo p).any Entry.started

/-- Whether any port has a started entry. -/
def anyStarted (s : State) : Bool := allPorts.any (hasStarted s)

/-! ### What the arbiter is offered (R106, R108) -/

/-- Whether the entry, at its FIFO's head, has a burst to offer (R106). -/
def Entry.offers (e : Entry) : Bool :=
  !e.issued && decide (e.done < e.bursts) && !(decide (e.kind = .fill) && e.stop.isSome)

/-- The lease a WRITE or FILL needs at every grant: its port, in its session, is the region's EXCLUSIVE holder at
the region's epoch (R108). The holder of a lost session counts until its removal (R90). -/
def leaseStands (s : State) (p : Port) (e : Entry) : Bool :=
  match e.kind with
  | .read => true
  | .write | .fill =>
    match s.region e.region with
    | none => false
    | some r =>
      decide (r.epoch = e.epoch) &&
        r.holders.any fun h => decide (h.port = p) && decide (h.session = e.session) && decide (h.mode = .exclusive)

/-- Whether the port's head is eligible (R123). -/
def eligible (s : State) (p : Port) : Bool :=
  match s.fifo p with
  | [] => false
  | e :: _ => e.offers && leaseStands s p e

/-- Whether any head is eligible. -/
def anyEligible (s : State) : Bool := allPorts.any (eligible s)

/-- Heads that offer a burst without their lease are stopped as SILENT cancellations and reported (R108, log 24). -/
def dropFrom (p : Port) : List Entry → State → State
  | [], s => s
  | e :: rest, s =>
    if e.offers && !leaseStands s p e then dropFrom p rest (endEntry (s.setFifo p rest) p e none false) else s

def dropBreaches (s : State) : State := allPorts.foldl (fun t p => dropFrom p (t.fifo p) t) s

/-! ### Acceptance (section 6.2) -/

/-- The port's holder entry of the region in the given session, not marked lost (R34). -/
def holderIn (r : Region) (p : Port) (n : Option SessNo) : Option Holder :=
  r.holders.find? fun h => decide (h.port = p) && decide (some h.session = n) && !h.lost

/-- The memory-state check (R102). -/
def memoryRefusal (s : State) : Option Status :=
  if s.retentionHold then some .retaining
  else match s.seq.dram with
    | .failed => some .memoryFailed
    | .uninitialized | .initializing _ => some .notReady
    | .ready | .powerDown _ | .enteringSr _ _ | .selfRefresh _ | .waking _ _ | .retention _ _ => none

/-- The region record that a region id on the wire names (R39). -/
def lookup (s : State) (id : Byte) : Option (RegionId × Region) :=
  if h : id.toNat < 32 then (s.region ⟨id.toNat, h⟩).map fun r => (⟨id.toNat, h⟩, r) else none

/-- Whether the lease is marked pending release (R71). -/
def Holder.releasing (h : Holder) : Bool := !h.pendingRelease.isEmpty

/-- The ordered checks of R101 on a region, its holder entry and the request: the first failure's status. -/
def txRefusal (s : State) (k : TxKind) (f : TxFields) (r : Region) (h : Holder) : Option Status :=
  if h.revokePending then some .revoked
  else if f.epoch ≠ r.epoch then some .stale
  else if k ≠ .read ∧ h.mode ≠ .exclusive then some .notExclusive
  else if h.releasing then some .releasing
  else if r.pageCount * 4096 < f.offset + f.length then some .outOfRange
  else memoryRefusal s

/-- The entry that an admitted request becomes (R103). -/
def newEntry (q : Request) (n : SessNo) (k : TxKind) (f : TxFields) (id : RegionId) (r : Region) : Entry where
  tag := q.replyTo.tag
  session := n
  kind := k
  region := id
  epoch := f.epoch
  start := r.basePage * 4096 + f.offset
  length := f.length
  data := f.data
  pattern := f.pattern
  done := 0
  issued := false
  readData := []
  stop := none

/-- The transaction kind of a held request. -/
def Kind.tx : Kind → Option TxKind
  | .read => some .read
  | .write => some .write
  | .fill => some .fill
  | .hello | .leave | .ping | .status | .setParam | .getParam | .defineRegion | .alterRegion | .deleteRegion
  | .queryRegion | .claim | .accept | .withdraw | .release | .revoke | .unfence | .reinit | .resume
  | .clearSuspect | .restart | .evictPort => none

end Sys2Proof.Machine
end

