-- ==== Sys2Proof/Machine/Sequencer.lean ====
section
/-! DEFINITION. The Memory Sequencer (chapters 7, 8 and 10): the burst arbiter, refreshes, idle, power-down, self
refresh, waking, init and retention. -/

namespace Sys2Proof.Machine

def State.setSeq (s : State) (q : Sequencer) : State := { s with seq := q }

/-! ### Durations -/

/-- The length of a step of the Sequencer: nominal on the reference, and on the backup oscillator the smallest whole
number of 125 ns periods that covers 1.3 times the nominal length (R163). -/
def opNs (s : State) (nominal : Nat) : Nat :=
  if s.clock.ref = .locked then nominal else (13 * nominal + 1249) / 1250 * 125

/-- The timer of a step that begins now. A later change of the timebase leaves it as it is: the model's choice
(log 36). -/
def opTimer (s : State) (nominal : Nat) : Option Timer := some (s.timer (opNs s nominal))

/-- The exit latency of a power-down kind (R140). -/
def pdExitNs : PdKind → Nat
  | .active | .prechargeFast => 24
  | .prechargeSlow => 60

/-- The refresh period a band calls for (R127). -/
def refreshPeriod : Band → Nat
  | .normal => 7800
  | .warm => 3900
  | .hot | .unknown => 1950

/-! ### Banks (R119, R120) -/

/-- The bank of a DRAM address: bits 10 to 12. -/
def bankOf (a : Nat) : Fin 8 := ⟨a / 1024 % 8, Nat.mod_lt _ (by decide)⟩

/-- The row of a DRAM address: bits 13 to 27. -/
def rowOf (a : Nat) : Nat := a / 8192

/-- Whether any bank is OPEN. -/
def anyBankOpen (q : Sequencer) : Bool := q.banks.toList.any fun b => decide (b ≠ .closed)

/-! ### The memory condition (R132) -/

/-- The condition becomes SUSPECT, with a MEMORY notice if it changed. -/
def markSuspect (s : State) : State :=
  if s.seq.condition = .suspect then s
  else postAll (s.setSeq { s.seq with condition := .suspect }) (.memory .suspect)

/-- Whether a band is beyond a retention's range (R158). -/
def beyondRange : Range → Band → Bool
  | .normal, .warm | .normal, .hot | .extended, .hot => true
  | .normal, .normal | .normal, .unknown | .extended, .normal | .extended, .warm | .extended, .unknown => false

/-- The judgement of a retention's range against the present band (R158, R167): beyond range the contents may have
lost charge (log 11). -/
def judgeRange (s : State) (range : Range) : State :=
  if beyondRange range s.thermal.band then markSuspect { s with memory := s.memory.losingCharge } else s

/-! ### Init (R129) -/

/-- Init begins with its reset hold. -/
def startInit (s : State) : State :=
  { s with
    memory := s.memory.unwarranted
    seq := { s.seq with
      dram := .initializing .resetHold, banks := allClosed, debt := 0, urgent := false, bus := .free
      opTimer := none, idle := false, pdTimer := none, srTimer := none, residency := none, kept := [] } }

/-- Init is aborted: UNINITIALIZED. A refresh that an accepted REINIT waited for goes on to its end (R126). -/
def abortInit (s : State) : State :=
  s.setSeq { s.seq with
    dram := .uninitialized, residency := none
    opTimer := if s.seq.bus = .refresh then s.seq.opTimer else none }

/-! ### Waking -/

/-- A wake begins (R149). -/
def beginWake (s : State) (target : WakeTarget) (source : WakeFrom) (nominal : Nat) : State :=
  s.setSeq { s.seq with
    dram := .waking target source, opTimer := opTimer s nominal, idle := false, pdTimer := none, srTimer := none }

/-- The wake from retention begins, and the retention hold is cleared (R169). -/
def wakeRetention (s : State) (range : Range) : State :=
  beginWake { s with retentionHold := false } .ready (.retention range) 700

/-- What a restoration does to the DRAM (R168). -/
def restoreDram (s : State) : State :=
  match s.seq.dram with
  | .retention range .restart => wakeRetention s range
  | .retention range .refLost => if s.params.resumePolicy = .auto then wakeRetention s range else s
  | .uninitialized => startInit s
  | .initializing _ | .failed | .ready | .powerDown _ | .enteringSr _ _ | .selfRefresh _ | .waking _ _ => s

/-- The DRAM enters RETENTION: banks CLOSED, debt 0, the range judged, and a restoration that came during the entry
acted on (R165, R167, R168), from the beginning of a warm restart only after its reset (log 18). -/
def reachRetention (s : State) (range : Range) : State :=
  let t := judgeRange
    (s.setSeq { s.seq with
      dram := .retention range (s.seq.retEntry.getD .refLost), banks := allClosed, debt := 0, urgent := false
      bus := .free, opTimer := none, retEntry := none })
    range
  if t.clock.ref = .locked && t.isRunning then restoreDram t else t

/-! ### Refreshes and entries (R126, R143, R144, R165) -/

/-- A refresh is issued: every bank CLOSED, the debt lowered by 1, 350 ns (R126). -/
def issueRefresh (s : State) : State :=
  s.setSeq { s.seq with
    banks := allClosed, debt := s.seq.debt - 1, bus := .refresh, opTimer := opTimer s 350 }

/-- Self refresh is entered with a range (R144). -/
def enterSelfRefresh (s : State) (range : Range) : State :=
  s.setSeq { s.seq with dram := .selfRefresh range, opTimer := none }

/-- The final step of an entry, by the band, or into RETENTION where a retention entry runs (R144, R164, R165). -/
def finalStep (s : State) (purpose : EntryPurpose) : State :=
  match purpose, s.seq.retEntry with
  | .retention, _ => reachRetention s .extended
  | .selfRefresh, some _ => reachRetention s (if s.thermal.band = .normal then .normal else .extended)
  | .selfRefresh, none =>
    match s.thermal.band with
    | .normal => enterSelfRefresh s .normal
    | .warm => enterSelfRefresh s .extended
    | .hot | .unknown => s.setSeq { s.seq with dram := .ready, banks := allClosed, debt := 0, opTimer := none }

/-- The step that pays the debt: a refresh while there is debt, else the final step (R143, step 3). -/
def payDebt (s : State) (purpose : EntryPurpose) : State :=
  if 0 < s.seq.debt then issueRefresh (s.setSeq { s.seq with dram := .enteringSr purpose .payDebt })
  else finalStep s purpose

/-- The step that closes the banks: 15 ns if any is OPEN (R143, step 2). -/
def closeBanks (s : State) (purpose : EntryPurpose) : State :=
  if anyBankOpen s.seq then
    s.setSeq { s.seq with dram := .enteringSr purpose .closeBanks, opTimer := opTimer s 15 }
  else payDebt s purpose

/-- Whether the band permits self refresh (R142). -/
def bandPermits (s : State) : Bool :=
  match s.thermal.band with
  | .normal | .warm => true
  | .hot | .unknown => false

/-- The self refresh timer's expiry with the DRAM idle in READY (R142). -/
def srExpiryIdle (s : State) : State :=
  if bandPermits s then
    closeBanks (s.setSeq { s.seq with idle := false, pdTimer := none, srTimer := none }) .selfRefresh
  else s.setSeq { s.seq with srTimer := none }

/-! ### The burst arbiter (R123) -/

/-- Whether the drain of a retention entry is over: no entry is started (R165). -/
def drainOver (s : State) : Bool := s.seq.retEntry.isSome && !anyStarted s

/-- The head of the port's FIFO is granted its next burst: the bank operations of R120, the access, and the bytes a
READ takes as they stand now (R97). -/
def grant (s : State) (p : Port) : State :=
  match s.fifo p with
  | [] => s
  | e :: rest =>
    let a := e.blockAddr e.done
    let bytes := if e.kind = .read then s.memory.readRun e.burstStart e.burstBytes else []
    (s.setFifo p ({ e with issued := true, readData := e.readData ++ bytes } :: rest)).setSeq
      { s.seq with
        banks := s.seq.banks.set (bankOf a).val (.opened (rowOf a)) (bankOf a).isLt
        bus := .burst p (decide (s.params.pagePolicy = .closed)), opTimer := none
        lastServed := p }

/-- The arbiter's choice (R123), and the urgent run of R125. -/
def chooseAmong (s : State) : State :=
  if drainOver s then s
  else if 8 ≤ s.seq.debt || (s.seq.urgent && 0 < s.seq.debt) then
    issueRefresh (s.setSeq { s.seq with urgent := true })
  else match (cycleAfter s.seq.lastServed).find? (eligible s) with
    | some p => grant s p
    | none => if 0 < s.seq.debt then issueRefresh s else s

/-- The arbiter acts whenever the DRAM is READY and neither a burst nor a refresh is in progress. -/
def arbiter (s : State) : State :=
  if s.seq.dram = .ready && s.seq.bus = .free then chooseAmong (dropBreaches s) else s

/-! ### Time, and the start of an admitted transaction (R117) -/

/-- An eligible head that could not start in the event of its own admission starts (R117, R123; the moment: log 7). -/
def startDue (s : State) : State := if anyEligible s then arbiter s else s

/-- The moment of an event that the hub takes no earlier than its deadline (log 3). As time passes, a head whose start
is due starts first (log 7). -/
def State.reach (s : State) (deadline : Nat) : State :=
  { (if s.now < deadline then startDue s else s) with now := max s.now deadline }

/-- The moment of a timer's expiry, if it runs. -/
def State.reachTimer (s : State) : Option Timer → State
  | some t => s.reach t.deadline
  | none => s

/-! ### Idle (R135 to R137) -/

/-- The conditions of idle; a drain of a retention entry is none (R165). -/
def idleNow (s : State) : Bool :=
  decide (s.seq.dram = .ready) && decide (s.seq.bus = .free) && decide (s.seq.debt = 0) && s.seq.retEntry.isNone &&
    !anyEligible s

/-- An idle start arms both idle timers; a self refresh deadline already past expires at once. -/
def startIdle (s : State) : State :=
  let pd := s.params.pdIdle100ns
  let t := s.setSeq { s.seq with idle := true, pdTimer := if pd = 0 then none else some (s.timer (pd * 100)) }
  match s.seq.srRef with
  | none => t
  | some r =>
    let duration := ms s.params.srIdleMs
    if duration = 0 then t
    else if r + duration ≤ s.now then srExpiryIdle t
    else t.setSeq { t.seq with srTimer := some ⟨duration, r + duration⟩ }

/-- Idle starts, or ends with both timers stopped. -/
def updateIdle (s : State) : State :=
  if idleNow s then (if s.seq.idle then s else startIdle s)
  else if s.seq.idle then s.setSeq { s.seq with idle := false, pdTimer := none, srTimer := none }
  else s

/-! ### Power-down exits (R139 to R141) -/

/-- The DRAM leaves power-down of this kind for READY (R140). -/
def leavePowerDown (s : State) (k : PdKind) : State := beginWake s .ready (.powerDown k) (pdExitNs k)

/-- A cause to leave power-down of this kind is acted on (R140). -/
def actPdCause (s : State) (k : PdKind) : PdCause → State
  | .head _ _ | .highWater => leavePowerDown s k
  | .srExpiry =>
    if bandPermits s then
      s.setSeq { s.seq with
        dram := .enteringSr .selfRefresh (.leavePowerDown k), opTimer := opTimer s (pdExitNs k), srTimer := none }
    else s

/-- A cause to leave power-down: kept during the residency, else acted on (R139). -/
def pdCause (s : State) (c : PdCause) : State :=
  match s.seq.dram with
  | .powerDown k =>
    if s.seq.residency.isSome then
      (if s.seq.kept.contains c then s else s.setSeq { s.seq with kept := s.seq.kept ++ [c] })
    else actPdCause s k c
  | _ => s

/-- The cause that a port's eligible head is, if its head is eligible (R140). -/
def headCause (s : State) (p : Port) : Option PdCause :=
  if eligible s p then (s.fifo p).head?.map fun e => .head p e.tag else none

/-- Whether a kept cause still holds (R139): a head while it is its port's head and eligible. -/
def causeHolds (s : State) : PdCause → Bool
  | .head p t => decide (headCause s p = some (.head p t))
  | .highWater => decide (s.params.refreshHighWater ≤ s.seq.debt)
  | .srExpiry => true

/-- A kept cause acted on in the state that the causes before it have produced (R139). -/
def takeKept (s : State) (c : PdCause) : State :=
  match s.seq.dram with
  | .powerDown k => if causeHolds s c then actPdCause s k c else s
  | _ => s

/-! ### Eligible heads outside READY (R140, R147, R148) -/

/-- Whether a kept cause is a head that is no longer eligible. -/
def headGone (s : State) : PdCause → Bool
  | .head p t => !causeHolds s (.head p t)
  | .highWater | .srExpiry => false

/-- The kept causes with the heads as they now stand: one that is gone is dropped, and one that became eligible comes
last (R139). -/
def keptHeads (s : State) : List PdCause :=
  let old := s.seq.kept.filter fun c => !headGone s c
  old ++ (allPorts.filterMap (headCause s)).filter fun c => !old.contains c

/-- Eligible heads in power-down: kept during the residency, else acted on (R139, R140). -/
def headsInPowerDown (s : State) (k : PdKind) : State :=
  if s.seq.residency.isSome then s.setSeq { s.seq with kept := keptHeads s }
  else if anyEligible s then leavePowerDown s k
  else s

/-- An eligible head wakes the DRAM from power-down and self refresh, and turns a range-change wake to READY. -/
def wakeForHeads (s : State) : State :=
  match s.seq.dram with
  | .powerDown k => headsInPowerDown s k
  | .selfRefresh _ => if anyEligible s then beginWake s .ready .selfRefresh 700 else s
  | .waking .selfRefresh src => if anyEligible s then s.setSeq { s.seq with dram := .waking .ready src } else s
  | _ => s

/-- What the Sequencer does at the end of an event that may have changed its work: the arbiter chooses, idle starts
or ends, and eligible heads wake the DRAM. -/
def settle (s : State) : State := wakeForHeads (updateIdle (arbiter s))

/-! ### The band (R147, R148, R158) -/

/-- What a band change does at the Sequencer (R157). -/
def bandChanged (s : State) : State :=
  match s.seq.dram, s.thermal.band with
  | .selfRefresh _, .hot | .selfRefresh _, .unknown => beginWake s .ready .selfRefresh 700
  | .selfRefresh .normal, .warm => beginWake s (if anyEligible s then .ready else .selfRefresh) .selfRefresh 700
  | .waking .selfRefresh src, .hot | .waking .selfRefresh src, .unknown =>
    s.setSeq { s.seq with dram := .waking .ready src }
  | .retention range _, _ => judgeRange s range
  | _, _ => s

/-! ### Retention entry (R164) -/

/-- The reason of a retention entry that begins while one may run: a RESTART stays (R166, R172, log 19). -/
def mergeReason (old : Option RetReason) (new : RetReason) : RetReason :=
  match old with
  | some .restart => .restart
  | _ => new

/-- A retention entry set running: the hold set, both idle timers stopped. -/
def enterRetention (s : State) (reason : RetReason) : State :=
  { s with
    retentionHold := true
    seq := { s.seq with
      retEntry := some (mergeReason s.seq.retEntry reason), idle := false, pdTimer := none, srTimer := none } }

/-- A retention entry in POWER_DOWN leaves it, once the residency is over (R139, R164). -/
def retainPowerDown (s : State) : State :=
  match s.seq.dram with
  | .powerDown k => if s.seq.retEntry.isSome && s.seq.residency.isNone then leavePowerDown s k else s
  | _ => s

/-- What a retention entry does at its beginning, by the DRAM state (R164, R172). -/
def beginRetention (s : State) (reason : RetReason) : State :=
  match s.seq.dram with
  | .ready | .waking _ _ | .enteringSr _ _ => enterRetention s reason
  | .powerDown _ => retainPowerDown (enterRetention s reason)
  | .selfRefresh range => reachRetention (enterRetention s reason) range
  | .retention range old =>
    let r := if !s.isRunning && decide (old = .restart) then RetReason.restart else reason
    s.setSeq { s.seq with dram := .retention range r, idle := false, pdTimer := none, srTimer := none }
  | .initializing _ => abortInit s
  | .failed => if reason = .restart then s.setSeq { s.seq with dram := .uninitialized } else s
  | .uninitialized => s

/-- Whether the DRAM state calls for a retention entry (R164). -/
def entersRetention : DramState → Bool
  | .ready | .powerDown _ | .enteringSr _ _ | .selfRefresh _ | .waking _ _ | .retention _ _ => true
  | .uninitialized | .initializing _ | .failed => false

/-! ### Warm restart (R172) -/

/-- A warm restart begins: the other blocks stop, a retention entry with reason RESTART, every FIFO silenced. -/
def beginRestart (s : State) (cause : ResetCause) : State :=
  let t := beginRetention { s with restart := .begun cause } .restart
  settle (silenceAll { t with seq := { t.seq with reinit := none } })

end Sys2Proof.Machine
end

