-- ==== Sys2Proof/Machine/ClockCommands.lean ====
section
/-! DEFINITION. The Clock Supervisor (section 10.1): LOSS_WINDOW_EXPIRY, REF_EDGE, LOCK_TIMER_EXPIRY. -/

namespace Sys2Proof.Machine

/-- The rate at which the hub transmits, in kbit/s: the strapped rate while LOCKED, else 4 Mbit/s (R2). -/
def transmitKbits (s : State) : Nat :=
  if s.clock.ref = .locked then
    match s.straps.rateFirst, s.straps.rateSecond with
    | false, false => 6000
    | true, false => 12000
    | false, true => 25000
    | true, true => 6000
  else 4000

/-- An accepted REINIT answered NOT_READY, as its init is aborted (R131). The init that follows is no longer its init,
and posts no MEMORY notice: the model's choice (log 35). -/
def failReinit (s : State) : State :=
  match s.seq.reinit with
  | some q => answer (s.setSeq { s.seq with reinit := none }) q .notReady
  | none => s

/-- A reference loss (R161): the retention entry with RETAINING, an init aborted, REF_LOST. -/
def loseReference (s : State) : State :=
  let stopped := if entersRetention s.seq.dram then retainAll { s with retentionHold := true } else s
  postAll (settle (failReinit (beginRetention stopped .refLost))) .refLost

/-- LOSS_WINDOW_EXPIRY: 4 µs have passed with no edge (R160). -/
def execLossWindowExpiry (s : State) : Host.Outcome State Fault Refusal :=
  let t := s.reach (s.clock.lastEdge + 4000)
  let lost := { t with clock := { t.clock with ref := .lost, lockTimer := none } }
  match s.clock.ref with
  | .lost => .next s
  | .locking => .next lost
  | .locked => .next (loseReference lost)

/-- REF_EDGE: from LOST, LOCKING with the lock timer from 0 (R160). Before its release a warm restart keeps the lock
timer stopped (R173, log 17). -/
def execRefEdge (s : State) : Host.Outcome State Fault Refusal :=
  match s.clock.ref with
  | .lost =>
    let timer := if s.restart = .awaitingRelease then none else some (s.timer 250000)
    .next { s with clock := ⟨.locking, timer, s.now⟩ }
  | .locking => .next { s with clock := { s.clock with lastEdge := s.now } }
  | .locked => .next { s with clock := { s.clock with lastEdge := s.now } }

/-- A restoration (R162): LOCKED, REF_RESTORED, and what the Sequencer does with the DRAM. From the beginning of a
warm restart to its reset the Notice Unit takes no event (R172), and a DRAM whose reset is due stays as it is
(log 18). -/
def restoreReference (s : State) : State :=
  let t := postAll { s with clock := { s.clock with ref := .locked, lockTimer := none } } .refRestored
  settle (if t.isRunning then restoreDram t else t)

/-- LOCK_TIMER_EXPIRY: 250 µs of continuous reference (R160, R162). -/
def execLockTimerExpiry (s : State) : Host.Outcome State Fault Refusal :=
  match s.clock.ref, s.clock.lockTimer with
  | .locking, some x => .next (restoreReference (s.reach x.deadline))
  | _, _ => .next s

end Sys2Proof.Machine
end

