-- ==== Sys2Proof/Machine/Directory.lean ====
section
/-! DEFINITION. The Lease Directory (chapters 3 to 5): conflicts, the wait queue, the recall trigger, the removal of
leases, revocation, session loss and fencing. -/

namespace Sys2Proof.Machine

/-! ### The record -/

/-- Whether a claim's mode conflicts with a holder's (R53). -/
def conflicts (claim holder : Mode) : Bool := decide (claim = .exclusive) || decide (holder = .exclusive)

/-- Whether the head of the queue conflicts with the region's holders (R53). -/
def headConflicts (r : Region) : Bool :=
  match r.queue with
  | [] => false
  | c :: _ => r.holders.any fun h => conflicts c.mode h.mode

/-- Whether the head of the queue is a SHARED claim. -/
def headShared (r : Region) : Bool :=
  match r.queue with
  | [] => false
  | c :: _ => decide (c.mode = .shared)

/-- Whether the region is under revocation (section 5.3). -/
def underRevocation (r : Region) : Bool := r.holders.any Holder.revokePending

/-- The state of a held region after its holders' mode. -/
def heldState : Mode → RegionState
  | .exclusive => .exclusive
  | .shared => .shared

/-- A holder put in its place by port. -/
def insertHolder (h : Holder) : List Holder → List Holder
  | [] => [h]
  | x :: rest => if Port.index h.port < Port.index x.port then h :: x :: rest else x :: insertHolder h rest

/-- A claim put after every claim of equal or greater priority and before the first of lower (R57). -/
def insertClaim (c : Claim) : List Claim → List Claim
  | [] => [c]
  | x :: rest => if x.priority < c.priority then c :: x :: rest else x :: insertClaim c rest

/-- The position at which `insertClaim` puts a claim, counting the head as 1. -/
def claimPosition (c : Claim) : List Claim → Nat
  | [] => 1
  | x :: rest => if x.priority < c.priority then 1 else claimPosition c rest + 1

/-- Whether the entry is this holder's. -/
def Holder.same (h x : Holder) : Bool :=
  decide (x.port = h.port) && decide (x.session = h.session) && decide (x.lost = h.lost)

/-- The holders without one. -/
def eraseHolder (h : Holder) (hs : List Holder) : List Holder := hs.filter fun x => !h.same x

/-- The holders with one changed. -/
def mapHolder (h : Holder) (f : Holder → Holder) (hs : List Holder) : List Holder :=
  hs.map fun x => if h.same x then f x else x

/-- The port's claim in the queue, in the given session. -/
def claimIn (r : Region) (p : Port) (n : Option SessNo) : Bool :=
  r.queue.any fun c => decide (c.port = p) && decide (some c.session = n)

/-- Whether the offer is out to the port in the given session. -/
def offerIn (r : Region) (p : Port) (n : Option SessNo) : Option Offer :=
  match r.offer with
  | some o => if o.port = p ∧ some o.session = n then some o else none
  | none => none

/-- The queue without the port's claim of the session. -/
def eraseClaim (p : Port) (n : SessNo) (q : List Claim) : List Claim :=
  q.filter fun c => !(decide (c.port = p) && decide (c.session = n))

/-- A change of a defined region's record. -/
def State.editRegion (s : State) (id : RegionId) (f : Region → Region) : State :=
  match s.region id with
  | some r => s.setRegion id (some (f r))
  | none => s

/-! ### The recall trigger (R59 to R62) -/

/-- YIELD to one holder: none while it is revoke pending (R82). -/
def postYield (id : RegionId) (deadline : Option Nat) (s : State) (h : Holder) : State :=
  if h.revokePending then s
  else postEntry s h.port h.session h.lost (.yield id (deadline.map (msRemaining s.now)))

/-- The region enters RECALLING (R60). -/
def enterRecalling (s : State) (id : RegionId) (r : Region) : State :=
  let deadline := if r.recallMs = 0 then none else some (s.now + ms r.recallMs)
  r.holders.foldl (postYield id deadline)
    (s.setRegion id (some { r with state := .recalling, recallDeadline := deadline }))

/-- The mode of the holders, and the state after it. -/
def stateOfHolders (r : Region) : RegionState :=
  match r.holders with
  | h :: _ => heldState h.mode
  | [] => r.state

/-- The recall is cancelled (R62). -/
def cancelRecall (s : State) (id : RegionId) (r : Region) : State :=
  r.holders.foldl (fun t h => postEntry t h.port h.session h.lost (.yieldCancelled id))
    (s.setRegion id (some { r with state := stateOfHolders r, recallDeadline := none }))

/-- The head of the queue becomes the offer (R61). -/
def offerHead (s : State) (id : RegionId) (r : Region) : State :=
  match r.queue with
  | [] => s
  | c :: rest =>
    let window := s.params.acceptWindowMs
    let r' := { r with
      queue := rest
      offer := some ⟨c.port, c.session, c.mode, s.now + ms window⟩
      state := if r.holders = [] then .offered else r.state
      recallDeadline := if r.holders = [] then none else r.recallDeadline }
    postEntry (s.setRegion id (some r')) c.port c.session false (.offer id c.mode window)

/-- The recall trigger: the first case of R59 that matches, evaluated again after cases 2, 4 and 5, at most `fuel`
times. Three passes are enough: a cancellation, an offer, and the last. -/
def triggerPass : Nat → State → RegionId → State
  | 0, s, _ => s
  | fuel + 1, s, id =>
    match s.region id with
    | none => s
    | some r =>
      if r.state = .fenced then s
      else if r.state = .recalling ∧ !headConflicts r then triggerPass fuel (cancelRecall s id r) id
      else if headConflicts r ∧ r.state ≠ .recalling then enterRecalling s id r
      else if r.holders = [] ∧ r.offer = none ∧ r.queue ≠ [] then triggerPass fuel (offerHead s id r) id
      else if r.state = .shared ∧ r.offer = none ∧ headShared r then triggerPass fuel (offerHead s id r) id
      else if r.holders = [] ∧ r.offer = none ∧ r.queue = [] then s.setRegion id (some { r with state := .free })
      else s

/-- The recall trigger (R59). -/
def trigger (s : State) (id : RegionId) : State := triggerPass 4 s id

/-! ### Removal of a lease (R72) -/

/-- How a region resolves once a holder has been deleted: with none left the recall ends, and the standing offer or
the queue decides (the trigger then offers the head, or leaves the region FREE). -/
def resolve (r : Region) : Region :=
  if r.holders = [] then
    { r with recallDeadline := none, state := if r.offer.isSome then .offered else .free }
  else r

/-- A lease is removed, before any reply and notice (R72). -/
def removeHolder (s : State) (id : RegionId) (h : Holder) : State :=
  s.editRegion id fun r => { r with holders := eraseHolder h r.holders }

/-- The region resolves and the recall trigger runs. -/
def settleRegion (s : State) (id : RegionId) : State := trigger (s.editRegion id resolve) id

/-- The waiting RELEASEs of a holder (R71, R82). -/
def Holder.releases (h : Holder) : List ReplyTo :=
  h.pendingRelease.map fun t => ⟨h.port, t, some h.session, .release⟩

/-- The waiting RELEASEs are answered, oldest first: the model's order (log 40). -/
def answerReleases (s : State) (h : Holder) (st : Status) : State := h.releases.foldl (fun t q => answer t q st) s

/-- A pending release ends (R71, R74). -/
def endRelease (s : State) (id : RegionId) (h : Holder) : State :=
  settleRegion (answerReleases (removeHolder s id h) h .ok) id

/-! ### Revocation (R81 to R84) -/

/-- A revoke-pending holder is removed: the entry, its RELEASEs, the REVOKED notice, the region (R83). -/
def removeRevoked (s : State) (id : RegionId) (h : Holder) : State :=
  match s.region id with
  | none => s
  | some r =>
    let t := answerReleases (removeHolder s id h) h .revoked
    settleRegion (postEntry t h.port h.session h.lost (.revoked id r.epoch)) id

/-- The revocation of one holder begins (R81). A lost session's entry is only marked: its removal follows R90. -/
def revokeHolder (id : RegionId) (s : State) (h : Holder) : State :=
  let marked := s.editRegion id fun r =>
    { r with holders := mapHolder h (fun x => { x with revokePending := true }) r.holders }
  let t := revokeEntries marked h.port h.session id
  if countOn t h.port id = 0 ∧ !h.lost then removeRevoked t id { h with revokePending := true } else t

/-- The revocation of every holder that is not yet revoke pending (R79, R80). -/
def revokeAll (s : State) (id : RegionId) (r : Region) : State :=
  (r.holders.filter fun h => !h.revokePending).foldl (revokeHolder id) s

/-! ### Loss and fencing (R87 to R92) -/

/-- FENCED to the supervisor and to each queued claimant, once each (R92). -/
def postFenced (s : State) (id : RegionId) (lostPort : Port) (q : List Claim) : State :=
  (q.filter fun c => decide (c.port ≠ s.supervisor)).foldl
    (fun t c => postEntry t c.port c.session false (.fenced id lostPort))
    (postSupervisor s (.fenced id lostPort))

/-- An EXCLUSIVE lease of a lost session is removed under the region's loss_action (R91). -/
def removeLost (s : State) (id : RegionId) (h : Holder) : State :=
  match s.region id with
  | none => s
  | some r =>
    match r.lossAction with
    | .fence =>
      postFenced
        (s.setRegion id
          (some { r with holders := eraseHolder h r.holders, recallDeadline := none, state := .fenced }))
        id h.port r.queue
    | .free =>
      settleRegion
        (s.setRegion id (some { r with holders := eraseHolder h r.holders, recallDeadline := none })) id

/-- Whether the holder is the lost session's. -/
def Holder.isOf (p : Port) (n : SessNo) (h : Holder) : Bool :=
  decide (h.port = p) && decide (h.session = n) && !h.lost

/-- A region's record after the claims, the offer and the SHARED leases of a lost session are gone and its EXCLUSIVE
lease is marked lost (R87 to R90). -/
def loseInRecord (p : Port) (n : SessNo) (r : Region) : Region :=
  let offer := if (offerIn r p (some n)).isSome then none else r.offer
  let kept := r.holders.filter fun h => !(h.isOf p n && decide (h.mode = .shared))
  let r' := { r with
    queue := eraseClaim p n r.queue, offer := offer
    holders := kept.map fun h => if h.isOf p n then { h with lost := true } else h }
  if r.holders = [] then r' else resolve r'

/-- What a session loss does to one region (R87 to R91); the recall trigger runs once if the record changed. -/
def loseRegion (p : Port) (n : SessNo) (s : State) (id : RegionId) : State :=
  match s.region id with
  | none => s
  | some r =>
    let r' := loseInRecord p n r
    if r' = r then s
    else
      let t := s.setRegion id (some r')
      match r'.holders.find? (fun h => h.lost && decide (h.port = p) && decide (h.session = n)) with
      | some h => if countOn t p id = 0 then removeLost t id h else trigger t id
      | none => trigger t id

/-- Step 3 of a session loss: every region (R33). -/
def loseLeases (s : State) (p : Port) (n : SessNo) : State := allRegions.foldl (loseRegion p n) s

/-! ### Orderly end (R26) -/

/-- A region's record after the second phase of a LEAVE drain has handed back what the port has there. -/
def leaveRecord (p : Port) (n : SessNo) (r : Region) : Region :=
  let offer := if (offerIn r p (some n)).isSome then none else r.offer
  let r' := { r with
    queue := eraseClaim p n r.queue, offer := offer
    holders := r.holders.filter fun h => !h.isOf p n }
  if r.holders = [] then r' else resolve r'

/-- The second phase of a LEAVE drain on one region (R26). -/
def leaveRegion (p : Port) (n : SessNo) (s : State) (id : RegionId) : State :=
  match s.region id with
  | none => s
  | some r =>
    let r' := leaveRecord p n r
    if r' = r then s else trigger (s.setRegion id (some r')) id

/-- The second phase of a LEAVE drain. -/
def leaveLeases (s : State) (p : Port) (n : SessNo) : State := allRegions.foldl (leaveRegion p n) s

/-! ### End reports (R74) -/

/-- The EXCLUSIVE holder entry of a lost session of the port. -/
def lostHolder (r : Region) (p : Port) : Option Holder :=
  r.holders.find? fun h => decide (h.port = p) && h.lost

/-- The Directory takes an end report. A lease is removed only when the report's number is 0 and the port's FIFO
still holds nothing on the region (R74, section 4.7, log 26). -/
def takeReport (s : State) (e : EndReport) : State :=
  match s.region e.region with
  | none => s
  | some r =>
    if e.count = 0 ∧ countOn s e.port e.region = 0 then
      match holderIn r e.port (s.presentSession e.port) with
      | some h =>
        if h.revokePending then removeRevoked s e.region h
        else if h.releasing then endRelease s e.region h
        else s
      | none =>
        match lostHolder r e.port with
        | some h => removeLost s e.region h
        | none => s
    else s

end Sys2Proof.Machine
end

