-- ==== Sys2Proof/Machine/Loss.lean ====
section
/-! DEFINITION. The loss of a session (R16, R33) and the handling of bad frames (R8, R9). -/

namespace Sys2Proof.Machine

/-- The Link Unit's part of a loss (R16): tags freed (but the HELLO's own, R23), cache cleared, replies and REFUSE
frames discarded, NAK frames kept, credit 0. -/
def Link.lose (l : Link) (keep : Option Tag) : Link :=
  { l with
    inFlight := match keep with
      | some t => allFree.set t.val (l.entry t) t.isLt
      | none => allFree
    cache := noReplies
    credit := 0
    responses := l.responses.filter fun r => decide (r.cls = .nak) }

/-- The Notice Unit's part of a session end (R182). -/
def Notices.clear (q : Notices) : Notices := { q with queue := [], lost := 0 }

/-- The session record after a session end: CLOSED, the number kept (R27, R33). -/
def Session.close (x : Session) : Session := { x with state := .closed, silence := none, label := none }

/-- Whether the port's loss discards the unsent OK of a RESTART, which begins the restart (R171). -/
def discardsRestart (s : State) (p : Port) : Bool := (s.link p).responses.any Response.restart

/-- Step 1 of R33: the record, the Link Unit and the Notice Unit. -/
def closeLost (s : State) (p : Port) (keep : Option Tag) : State :=
  s.setPort p
    { s.port p with
      link := (s.link p).lose keep, session := (s.session p).close, notices := (s.notices p).clear }

/-- The loss of the port's session, steps 1 to 4 of R33. -/
def loseSession (s : State) (p : Port) (cause : LossCause) (keep : Option Tag) : State :=
  let n := (s.session p).number
  let t := loseLeases (loseEntries (closeLost s p keep) p n) p n
  if t.supervisor = p then t else postSupervisor t (.sessionLost p cause n)

/-- A warm restart begins with cause COMMAND, if `due`. -/
def restartIf (s : State) (due : Bool) : State := if due then beginRestart s .command else s

/-- A loss as an event of its own: the loss, the Sequencer's part, and then a restart whose OK it discarded (R171; the
order is the model's choice, log 39). -/
def loseEvent (s : State) (p : Port) (cause : LossCause) : State :=
  restartIf (settle (loseSession s p cause none)) (discardsRestart s p)

/-! ### Bad frames -/

/-- A frame of the port is bad (R8, R9). -/
def badFrame (s : State) (p : Port) (cause : NakCause) : State :=
  let count := (s.link p).badFrames + 1
  let t := handRefusal (s.setLink p { s.link p with badFrames := count }) p .nak (nakFrame count cause)
  if count < 8 then t
  else
    let u := t.setLink p { t.link p with badFrames := 0 }
    if (u.session p).live then loseEvent u p .linkFault else u

end Sys2Proof.Machine
end

