-- ==== Sys2Proof/Machine/Requests.lean ====
section
/-! DEFINITION. The path of a good frame: its bytes through the receiver, the Link Unit's checks (R10), the Session
Manager's checks (R18), and the reading of a request's fields by its owner (R186). -/

namespace Sys2Proof.Machine

/-! ### Good frames -/

/-- The good-frame report (R10, step 1): the bad-frame count returns to 0, and the silence timer of an OPEN session
restarts with the present keepalive_ms, or stops if that is 0 (R31). -/
def reportGood (s : State) (p : Port) : State :=
  let t := s.setLink p { s.link p with badFrames := 0 }
  match (t.session p).state with
  | .opened =>
    let k := t.params.keepaliveMs
    t.setSession p { t.session p with silence := if k = 0 then none else some (t.timer (ms k)) }
  | .closed => t
  | .closing _ => t

/-- The outcome carried on from its next state. -/
def andThen (o : Host.Outcome State Fault Refusal) (k : State → Host.Outcome State Fault Refusal) :
    Host.Outcome State Fault Refusal :=
  match o with
  | .next t => k t
  | .fault f => .fault f
  | .refused r => .refused r

/-- Bytes through a port's receiver (R4 to R7): the state with the receiver they leave, and the frames that end. -/
def hearBytes (s : State) (p : Port) (bytes : List Byte) : State × List RxEvent :=
  let (rx, ends) := (s.link p).rx.hear s.now bytes
  (s.setLink p { s.link p with rx := rx }, ends)

/-- The frames that have ended on a port, in order: a bad one is counted (R8), a good one reported and handled. Once a
warm restart has begun the rest is discarded (R172). -/
def hearFrames (p : Port) (handle : State → Host.Outcome State Fault Refusal) :
    List RxEvent → State → Host.Outcome State Fault Refusal
  | [], s => .next s
  | .bad c :: rest, s => if s.isRunning then hearFrames p handle rest (badFrame s p c) else .next s
  | .good _ :: rest, s =>
    if s.isRunning then andThen (handle (reportGood s p)) (hearFrames p handle rest) else .next s

/-- A frame arrives on a port. Its bytes pass the receiver; a good frame is reported and handled. While a warm
restart has begun or waits for its release, the bytes are discarded (R172, R173). -/
def receive (p : Port) (f : Frame) (s : State) (handle : State → Host.Outcome State Fault Refusal) :
    Host.Outcome State Fault Refusal :=
  let (t, ends) := hearBytes s p f.wire
  if s.isRunning && ends.all (RxEvent.fits (some f)) then hearFrames p handle ends t else .next s

/-! ### Requests -/

/-- The Session Manager's checks (R18): the status of the first that fails. -/
def sessionRefusal (s : State) (p : Port) (k : Kind) : Option Status :=
  if k = .hello then none
  else match (s.session p).state with
    | .closed => some .noSession
    | .closing _ => some .closing
    | .opened => if k.supervisorOnly && decide (p ≠ s.supervisor) then some .notSupervisor else none

/-- A request taken: its entry in flight under the port's present session (R10, step 5). -/
def takeTag (s : State) (p : Port) (t : Tag) : State :=
  s.setLink p { s.link p with inFlight := (s.link p).withEntry t (.taken (s.presentSession p)) }

/-- A good frame of a request kind: refused TAG_BUSY, or taken, checked and routed to its owner (R10, R18). -/
def routeRequest (p : Port) (k : Kind) (tb : Byte) (pl : List Byte)
    (owner : State → Request → Host.Outcome State Fault Refusal) (s : State) : Host.Outcome State Fault Refusal :=
  match (s.link p).entry (tagOf tb) with
  | .taken _ => .next (refuse s p (tagOf tb) .tagBusy)
  | .free =>
    let q : Request := ⟨⟨p, tagOf tb, s.presentSession p, k⟩, tb, pl⟩
    match sessionRefusal s p k with
    | some st => .next (answer (takeTag s p (tagOf tb)) q.replyTo st)
    | none => owner (takeTag s p (tagOf tb)) q

/-- A request frame arrives and its owner performs it. -/
def request (p : Port) (k : Kind) (tb : Byte) (pl : List Byte)
    (owner : State → Request → Host.Outcome State Fault Refusal) (s : State) : Host.Outcome State Fault Refusal :=
  receive p ⟨k.code, tb, pl⟩ s (routeRequest p k tb pl owner)

/-- The owner's reading of a request: BAD_FORMAT where the encoding fails (R186). -/
def withFields {α : Type} (s : State) (q : Request) (reader : List Byte → Option α) (act : α → State) :
    Host.Outcome State Fault Refusal :=
  match q.fields reader with
  | some f => .next (act f)
  | none => .next (answer s q.replyTo .badFormat)

/-- A request that names a defined region: NO_REGION where it names none (R39). -/
def withRegion (s : State) (q : Request) (id : Byte) (act : RegionId → Region → State) : State :=
  match lookup s id with
  | some (i, r) => act i r
  | none => answer s q.replyTo .noRegion

end Sys2Proof.Machine
end

