-- ==== Sys2Proof/Machine/LeaseCommands.lean ====
section
/-! DEFINITION. The lease commands (chapters 4 and 5): CLAIM, ACCEPT, WITHDRAW, RELEASE, REVOKE, UNFENCE, the expiry
of the two deadlines, and the end reports. -/

namespace Sys2Proof.Machine

/-- A holder joins a region under revocation and is revoked at once (R84). -/
def revokeJoined (s : State) (id : RegionId) (h : Holder) (under : Bool) : State :=
  if under then revokeHolder id s h else s

/-! ### CLAIM (R55 to R57) -/

/-- Whether the port already holds, is offered or claims the region (R55, check 3). -/
def alreadyThere (r : Region) (p : Port) (n : Option SessNo) : Bool :=
  (holderIn r p n).isSome || (offerIn r p n).isSome || claimIn r p n

/-- Whether a CLAIM is granted at once (R56). -/
def grantsAtOnce (r : Region) (m : Mode) : Bool :=
  decide (r.state = .free) || (decide (r.state = .shared) && decide (m = .shared) && r.queue.isEmpty)

/-- The record with a holder added: from FREE a new tenure, with the epoch raised (R50, R56). -/
def grantRecord (r : Region) (h : Holder) : Region :=
  if r.state = .free then
    { r with epoch := r.epoch + 1, holders := insertHolder h r.holders, state := heldState h.mode }
  else { r with holders := insertHolder h r.holders }

/-- A CLAIM granted at once (R56, R84). -/
def grantClaim (s : State) (q : Request) (id : RegionId) (r : Region) (n : SessNo) (m : Mode) : State :=
  let h : Holder := ⟨q.replyTo.port, n, m, [], false, false⟩
  let r' := grantRecord r h
  let t := reply (s.setRegion id (some r')) q.replyTo (epochPayload .granted r'.epoch)
  revokeJoined (trigger t id) id h (underRevocation r)

/-- A CLAIM put in the wait queue with its port's present priority (R57). -/
def queueClaim (s : State) (q : Request) (id : RegionId) (r : Region) (n : SessNo) (m : Mode) : State :=
  let c : Claim := ⟨q.replyTo.port, n, m, s.params.priority.get q.replyTo.port⟩
  let t := reply (s.setRegion id (some { r with queue := insertClaim c r.queue })) q.replyTo
    [Status.queued.code, u8 (claimPosition c r.queue)]
  trigger t id

/-- CLAIM, its encoding right (R55). -/
def serveClaim (s : State) (q : Request) (f : ClaimFields) : State :=
  withRegion s q f.id fun id r =>
    match modeOf f.mode, q.replyTo.session with
    | some m, some n =>
      if m = .shared ∧ !r.sharedAllowed then answer s q.replyTo .badParam
      else if alreadyThere r q.replyTo.port (some n) then answer s q.replyTo .already
      else if grantsAtOnce r m then grantClaim s q id r n m
      else queueClaim s q id r n m
    | _, _ => answer s q.replyTo .badParam

def execClaim (p : Port) (tb : Byte) (pl : List Byte) (s : State) : Host.Outcome State Fault Refusal :=
  request p .claim tb pl (fun t q => withFields t q readClaim (serveClaim t q)) s

/-! ### ACCEPT (R64, R65) -/

/-- The record with the offer accepted: a new tenure if the region had no holder. -/
def acceptRecord (r : Region) (h : Holder) : Region :=
  if r.holders = [] then
    { r with offer := none, epoch := r.epoch + 1, holders := [h], state := heldState h.mode }
  else { r with offer := none, holders := insertHolder h r.holders }

/-- The YIELD to a holder that joins a RECALLING region, alone (R60, R65). -/
def yieldToJoined (s : State) (id : RegionId) (r : Region) (h : Holder) : State :=
  if r.holders ≠ [] ∧ r.state = .recalling then postYield id r.recallDeadline s h else s

/-- An offer accepted by its target (R64, R65, R84). -/
def acceptOffer (s : State) (q : Request) (id : RegionId) (r : Region) (o : Offer) : State :=
  let h : Holder := ⟨o.port, o.session, o.mode, [], false, false⟩
  let r' := acceptRecord r h
  let t := reply (s.setRegion id (some r')) q.replyTo (epochPayload .ok r'.epoch)
  revokeJoined (trigger (yieldToJoined t id r h) id) id h (underRevocation r)

def serveAccept (s : State) (q : Request) (b : Byte) : State :=
  withRegion s q b fun id r =>
    match offerIn r q.replyTo.port q.replyTo.session with
    | some o => acceptOffer s q id r o
    | none => answer s q.replyTo .noOffer

def execAccept (p : Port) (tb : Byte) (pl : List Byte) (s : State) : Host.Outcome State Fault Refusal :=
  request p .accept tb pl (fun t q => withFields t q readOne (serveAccept t q)) s

/-! ### WITHDRAW (R68, R69) -/

/-- The record without the port's claim or offer, if it has one. -/
def withdrawRecord (r : Region) (p : Port) (n : SessNo) : Option Region :=
  if claimIn r p (some n) then some { r with queue := eraseClaim p n r.queue }
  else if (offerIn r p (some n)).isSome then some { r with offer := none }
  else none

def serveWithdraw (s : State) (q : Request) (b : Byte) : State :=
  withRegion s q b fun id r =>
    match q.replyTo.session.bind (withdrawRecord r q.replyTo.port) with
    | some r' => trigger (answer (s.setRegion id (some r')) q.replyTo .ok) id
    | none => answer s q.replyTo .notClaimed

def execWithdraw (p : Port) (tb : Byte) (pl : List Byte) (s : State) : Host.Outcome State Fault Refusal :=
  request p .withdraw tb pl (fun t q => withFields t q readOne (serveWithdraw t q)) s

/-! ### RELEASE (R70 to R72) -/

/-- The holder marked pending release, with the RELEASE's tag among those that wait (R71, R82). -/
def markRelease (s : State) (id : RegionId) (h : Holder) (t : Tag) : State :=
  s.editRegion id fun r =>
    { r with holders := mapHolder h (fun x => { x with pendingRelease := x.pendingRelease ++ [t] }) r.holders }

/-- RELEASE by a holder (R70): of a revoke-pending one it waits for the revocation, whether or not another RELEASE waits
(R82, log 32); else RELEASING while one waits, a wait for the drain, or the removal at once. -/
def releaseHolder (s : State) (q : Request) (id : RegionId) (h : Holder) : State :=
  if h.revokePending then markRelease s id h q.replyTo.tag
  else if h.releasing then answer s q.replyTo .releasing
  else if countOn s h.port id ≠ 0 then markRelease s id h q.replyTo.tag
  else settleRegion (answer (removeHolder s id h) q.replyTo .ok) id

def serveRelease (s : State) (q : Request) (b : Byte) : State :=
  withRegion s q b fun id r =>
    match holderIn r q.replyTo.port q.replyTo.session with
    | some h => releaseHolder s q id h
    | none => answer s q.replyTo .notHeld

def execRelease (p : Port) (tb : Byte) (pl : List Byte) (s : State) : Host.Outcome State Fault Refusal :=
  request p .release tb pl (fun t q => withFields t q readOne (serveRelease t q)) s

/-! ### REVOKE (R80) -/

/-- REVOKE of a held region (R80): the deadline cleared, the OK, and the revocation of its holders. That the OK comes
before the replies of the transactions cancelled on the supervisor's own port is the model's choice (log 37). -/
def revokeHeld (s : State) (q : Request) (id : RegionId) (r : Region) : State :=
  let t := answer (s.setRegion id (some { r with recallDeadline := none })) q.replyTo .ok
  settle (revokeAll t id r)

def serveRevoke (s : State) (q : Request) (b : Byte) : State :=
  withRegion s q b fun id r =>
    match r.state with
    | .free | .offered | .fenced => answer s q.replyTo .notHeld
    | .exclusive | .shared | .recalling => revokeHeld s q id r

def execRevoke (p : Port) (tb : Byte) (pl : List Byte) (s : State) : Host.Outcome State Fault Refusal :=
  request p .revoke tb pl (fun t q => withFields t q readOne (serveRevoke t q)) s

/-! ### UNFENCE (R94) -/

def unfenceRegion (s : State) (q : Request) (id : RegionId) (r : Region) : State :=
  let e := r.epoch + 1
  trigger (reply (s.setRegion id (some { r with epoch := e, state := .free })) q.replyTo (epochPayload .ok e)) id

def serveUnfence (s : State) (q : Request) (b : Byte) : State :=
  withRegion s q b fun id r =>
    if r.state = .fenced then unfenceRegion s q id r else answer s q.replyTo .regionBusy

def execUnfence (p : Port) (tb : Byte) (pl : List Byte) (s : State) : Host.Outcome State Fault Refusal :=
  request p .unfence tb pl (fun t q => withFields t q readOne (serveUnfence t q)) s

/-! ### Deadlines and reports -/

/-- The offer's deadline is reached (R66): the offer removed, LAPSED, the trigger. -/
def expireOffer (s : State) (id : RegionId) (r : Region) (o : Offer) : State :=
  let t := s.setRegion id (some { r with offer := none })
  trigger (postEntry t o.port o.session false (.lapsed id)) id

def execOfferDeadlineExpiry (id : RegionId) (s : State) : Host.Outcome State Fault Refusal :=
  if s.isRunning then
    match s.region id with
    | none => .next s
    | some r =>
      match r.offer with
      | none => .next s
      | some o => .next (expireOffer (s.reach o.deadline) id r o)
  else .next s

/-- The recall deadline is reached (R79): it is cleared, and every holder is revoked. -/
def expireRecall (s : State) (id : RegionId) (r : Region) : State :=
  let r' := { r with recallDeadline := none }
  settle (revokeAll (s.setRegion id (some r')) id r')

def execRecallDeadlineExpiry (id : RegionId) (s : State) : Host.Outcome State Fault Refusal :=
  if s.isRunning then
    match s.region id with
    | none => .next s
    | some r =>
      match r.recallDeadline with
      | none => .next s
      | some d => .next (expireRecall (s.reach d) id r)
  else .next s

/-- TRANSACTION_END_REPORT: the Directory takes the oldest report (R74). -/
def execTransactionEndReport (s : State) : Host.Outcome State Fault Refusal :=
  if s.isRunning then
    match s.reports with
    | [] => .next s
    | e :: rest => .next (takeReport { s with reports := rest } e)
  else .next s

end Sys2Proof.Machine
end

