-- ==== Sys2Proof/Machine/LinkCommands.lean ====
section
/-! DEFINITION. The commands of the links (chapter 1): GAP_TIMEOUT, BAD_FRAME, BAD_KIND_FRAME, CREDIT, RESEND,
FRAME_TRANSMITTED. -/

namespace Sys2Proof.Machine

/-- The gap timer expires: the frame in reception is bad with cause GAP (R7). -/
def expireGap (p : Port) (s : State) : Host.Outcome State Fault Refusal :=
  if s.isRunning then
    let t := s.reachTimer (s.link p).rx.gap
    .next (badFrame (t.setLink p { t.link p with rx := Receiver.idle }) p .gap)
  else .next s

/-- GAP_TIMEOUT: the bytes leave a frame in reception, and 200 µs pass with no further byte (R7). -/
def execGapTimeout (p : Port) (bs : List Byte) (s : State) : Host.Outcome State Fault Refusal :=
  let (t, ends) := hearBytes s p bs
  if s.isRunning && decide ((t.link p).rx.mode ≠ .hunt) && ends.all (RxEvent.fits none) then
    andThen (hearFrames p .next ends t) (expireGap p)
  else .next s

/-- BAD_FRAME: the bytes end as a bad frame, OVERLENGTH or BAD_CRC (R5, R6, R8). The receiver takes the bytes that
follow its end in HUNT (R4). -/
def execBadFrame (p : Port) (bs : List Byte) (s : State) : Host.Outcome State Fault Refusal :=
  let (t, ends) := hearBytes s p bs
  if s.isRunning && !ends.isEmpty && ends.all (RxEvent.fits none) then hearFrames p .next ends t else .next s

/-- BAD_KIND_FRAME: a good frame of a kind no client may send is refused (R10, step 2). -/
def execBadKindFrame (p : Port) (k tb : Byte) (pl : List Byte) (s : State) : Host.Outcome State Fault Refusal :=
  if clientKind k then .next s
  else receive p ⟨k, tb, pl⟩ s fun t => .next (refuse t p (tagOf tb) .badKind)

/-- A CREDIT frame's grant: exactly one byte with a value 1 to 16 (R14). -/
def grantOf : List Byte → Option Nat
  | [n] => if 1 ≤ n.toNat ∧ n.toNat ≤ 16 then some n.toNat else none
  | _ => none

/-- Credit added to the port's count, capped at 16; a waiting notice may go at once (R14, R15). -/
def addCredit (s : State) (p : Port) (n : Nat) : State :=
  arbitrate (s.setLink p { s.link p with credit := min 16 ((s.link p).credit + n) }) p

/-- CREDIT (R14). -/
def execCredit (p : Port) (tb : Byte) (pl : List Byte) (s : State) : Host.Outcome State Fault Refusal :=
  receive p ⟨creditCode, tb, pl⟩ s fun t =>
    if (t.session p).live then
      match grantOf pl with
      | some n => .next (addCredit t p n)
      | none => .next t
    else .next t

/-- The tag a RESEND names: exactly one byte with a value 0 to 7 (R13). -/
def resendTag : List Byte → Option Tag
  | [t] => if h : t.toNat < 8 then some ⟨t.toNat, h⟩ else none
  | _ => none

/-- Whether a copy of the reply waits in the response list (R13). -/
def replyWaits (l : Link) (f : Frame) : Bool :=
  l.responses.any fun r => decide (r.cls = .reply) && decide (r.frame = f)

/-- The answer to a RESEND that names a tag (R13). -/
def resendReply (s : State) (p : Port) (t : Tag) : State :=
  let l := s.link p
  match l.entry t with
  | .taken _ => refuse s p t .inFlight
  | .free =>
    match l.cached t with
    | none => refuse s p t .noReply
    | some f =>
      if replyWaits l f then s
      else arbitrate (s.setLink p { l with responses := l.responses ++ [⟨.reply, f, false⟩] }) p

/-- RESEND (R13). -/
def execResend (p : Port) (tb : Byte) (pl : List Byte) (s : State) : Host.Outcome State Fault Refusal :=
  receive p ⟨resendCode, tb, pl⟩ s fun t =>
    match resendTag pl with
    | some n => .next (resendReply t p n)
    | none => .next t

/-- FRAME_TRANSMITTED: the last byte of the frame in progress is sent. The end of RESTART's OK begins the restart
(R171); else the arbiter chooses again (R15). -/
def execFrameTransmitted (p : Port) (s : State) : Host.Outcome State Fault Refusal :=
  match (s.link p).tx with
  | none => .next s
  | some t =>
    let idle := s.setLink p { s.link p with tx := none }
    if t.restart && s.isRunning then .next (beginRestart idle .command) else .next (arbitrate idle p)

end Sys2Proof.Machine
end

