-- ==== Sys2Proof/Machine/ParamCommands.lean ====
section
/-! DEFINITION. The Parameter Table (section 2.9, R35, R36): SET_PARAM and GET_PARAM. -/

namespace Sys2Proof.Machine

/-- The parameters, by id 0x01 to 0x0E (section 12.1). -/
inductive ParamId where
  | keepaliveMs | acceptWindowMs | priority (port : Port) | pagePolicy | pdIdle100ns | srIdleMs | pdExit
  | refreshHighWater | warmThreshold | hotThreshold | resumePolicy
  deriving DecidableEq, Repr

/-- The parameter an id names. -/
def paramOf (id : Byte) : Option ParamId :=
  match id.toNat with
  | 0x01 => some .keepaliveMs
  | 0x02 => some .acceptWindowMs
  | 0x03 => some (.priority .a)
  | 0x04 => some (.priority .b)
  | 0x05 => some (.priority .c)
  | 0x06 => some (.priority .d)
  | 0x07 => some .pagePolicy
  | 0x08 => some .pdIdle100ns
  | 0x09 => some .srIdleMs
  | 0x0A => some .pdExit
  | 0x0B => some .refreshHighWater
  | 0x0C => some .warmThreshold
  | 0x0D => some .hotThreshold
  | 0x0E => some .resumePolicy
  | _ => none

/-- The stored value of a parameter, as it travels. -/
def Params.value (t : Params) : ParamId → Nat
  | .keepaliveMs => t.keepaliveMs
  | .acceptWindowMs => t.acceptWindowMs
  | .priority p => t.priority.get p
  | .pagePolicy => t.pagePolicy.value
  | .pdIdle100ns => t.pdIdle100ns
  | .srIdleMs => t.srIdleMs
  | .pdExit => t.pdExit.value
  | .refreshHighWater => t.refreshHighWater
  | .warmThreshold => t.warmThreshold
  | .hotThreshold => t.hotThreshold
  | .resumePolicy => t.resumePolicy.value

/-- Whether a value is in the parameter's range, the thresholds with their gap of 5 °C (R35). -/
def Params.admits (t : Params) (id : ParamId) (v : Nat) : Bool :=
  match id with
  | .keepaliveMs => v == 0 || (10 ≤ v && v ≤ 10000)
  | .acceptWindowMs => 1 ≤ v && v ≤ 1000
  | .priority _ => v ≤ 3
  | .pagePolicy => v ≤ 1
  | .pdIdle100ns => v ≤ 255
  | .srIdleMs => v ≤ 60000
  | .pdExit => v ≤ 1
  | .refreshHighWater => 1 ≤ v && v ≤ 7
  | .warmThreshold => 60 ≤ v && v ≤ 120 && v + 5 ≤ t.hotThreshold
  | .hotThreshold => t.warmThreshold + 5 ≤ v && v ≤ 125
  | .resumePolicy => v ≤ 1

/-- The table with a parameter stored. -/
def Params.store (t : Params) (id : ParamId) (v : Nat) : Params :=
  match id with
  | .keepaliveMs => { t with keepaliveMs := v }
  | .acceptWindowMs => { t with acceptWindowMs := v }
  | .priority p => { t with priority := t.priority.set p v }
  | .pagePolicy => { t with pagePolicy := if v = 0 then .opened else .closed }
  | .pdIdle100ns => { t with pdIdle100ns := v }
  | .srIdleMs => { t with srIdleMs := v }
  | .pdExit => { t with pdExit := if v = 0 then .fast else .slow }
  | .refreshHighWater => { t with refreshHighWater := v }
  | .warmThreshold => { t with warmThreshold := v }
  | .hotThreshold => { t with hotThreshold := v }
  | .resumePolicy => { t with resumePolicy := if v = 0 then .auto else .supervised }

/-- What a stored value does at once: a refresh_high_water at or below the debt wakes the DRAM from POWER_DOWN
(R37, R141). -/
def storeEffect (s : State) (id : ParamId) : State :=
  if id = .refreshHighWater ∧ s.params.refreshHighWater ≤ s.seq.debt then pdCause s .highWater else s

/-- SET_PARAM, its encoding right (R35). -/
def serveSetParam (s : State) (q : Request) (f : SetParamFields) : State :=
  match paramOf f.id with
  | none => answer s q.replyTo .badParam
  | some id =>
    if s.params.admits id f.value then
      answer (storeEffect { s with params := s.params.store id f.value } id) q.replyTo .ok
    else answer s q.replyTo .badParam

def execSetParam (p : Port) (tb : Byte) (pl : List Byte) (s : State) : Host.Outcome State Fault Refusal :=
  request p .setParam tb pl (fun t q => withFields t q readSetParam (serveSetParam t q)) s

/-- GET_PARAM, its encoding right (R36). -/
def serveGetParam (s : State) (q : Request) (id : Byte) : State :=
  match paramOf id with
  | none => answer s q.replyTo .badParam
  | some x => reply s q.replyTo ([Status.ok.code, id] ++ le16 (s.params.value x))

def execGetParam (p : Port) (tb : Byte) (pl : List Byte) (s : State) : Host.Outcome State Fault Refusal :=
  request p .getParam tb pl (fun t q => withFields t q readOne (serveGetParam t q)) s

end Sys2Proof.Machine
end

