-- ==== Sys2Proof/Machine/PowerCommands.lean ====
section
/-! DEFINITION. Power-on and warm restart (sections 10.5, 10.6): POWER_ON, RESET_ASSERTED, WARM_RESTART_RESET,
RESET_RELEASED. -/

namespace Sys2Proof.Machine

/-- POWER_ON (R175): the power-on state; what the DRAM held is gone (log 9). -/
def execPowerOn (x : Straps) (s : State) : Host.Outcome State Fault Refusal :=
  .next (State.powerOn s.now (s.memory.generation + 1) x s.pending)

/-- RESET_ASSERTED (R171): a restart with cause PIN begins, or one begun with cause COMMAND takes cause PIN. -/
def execResetAsserted (s : State) : Host.Outcome State Fault Refusal :=
  if s.resetPin = .low then .next s
  else
    let t := { s with resetPin := .low }
    match t.restart with
    | .running => .next (beginRestart t .pin)
    | .begun _ => .next { t with restart := .begun .pin }
    | .awaitingRelease => .next t

/-! ### The reset (R173) -/

/-- The memory condition after a warm restart (R132). -/
def restartCondition : MemCondition → MemCondition
  | .fresh | .retained => .retained
  | .suspect => .suspect

/-- The Sequencer at the reset of a warm restart (R134, R150, R173): with a retention entry still running it keeps
its DRAM state, bank table, debt and refresh in progress, and what these consist of (log 29); no cause is kept. -/
def resetSequencer (s : State) : Sequencer :=
  let q := s.seq
  let base : Sequencer :=
    { Sequencer.powerOn s.now with dram := q.dram, condition := restartCondition q.condition }
  if q.retEntry.isSome then
    { base with
      banks := q.banks, debt := q.debt, urgent := q.urgent, bus := q.bus, opTimer := q.opTimer
      residency := q.residency, retEntry := q.retEntry }
  else base

/-- Whether the DRAM is held for retention (R173). -/
def heldForRetention (q : Sequencer) : Bool :=
  q.retEntry.isSome || (match q.dram with
    | .retention _ _ => true
    | _ => false)

/-- The Clock Supervisor at the reset: LOCKING, its lock timer stopped (R160, R173). -/
def resetClock (c : Clock) : Clock := ⟨.locking, none, c.lastEdge⟩

/-- Every block takes its reset state (R173). -/
def resetBlocks (s : State) (cause : ResetCause) : State :=
  { s with
    restart := .awaitingRelease
    ports := ⟨PortState.reset, PortState.reset, PortState.reset, PortState.reset⟩
    bootCause := cause
    params := Params.reset
    regions := Vector.replicate 32 none
    retentionHold := heldForRetention s.seq
    reports := []
    seq := resetSequencer s
    thermal := ⟨none, .unknown, none, false⟩
    clock := resetClock s.clock }

/-- The release (R173): the straps are sampled, the lock timer and the Thermal Monitor start, the links receive. -/
def release (s : State) (x : Straps) : State :=
  { s with
    restart := .running
    straps := x
    supervisor := supervisorPort x
    thermal := Thermal.started s.now
    clock := { s.clock with
      lockTimer := if s.clock.ref = .locking then some (s.timer 250000) else s.clock.lockTimer } }

/-- WARM_RESTART_RESET: once no started entry remains, the reset; with cause COMMAND, or with RESET# high, the
release in the same event (R172, R173). -/
def execWarmRestartReset (x : Straps) (s : State) : Host.Outcome State Fault Refusal :=
  match s.restart with
  | .begun cause =>
    if anyStarted s then .next s
    else
      let t := resetBlocks s cause
      if cause = .command ∨ s.resetPin = .high then .next (release t x) else .next t
  | .running => .next s
  | .awaitingRelease => .next s

/-- RESET_RELEASED: RESET# is found high; a restart that waits for it is released (R173). -/
def execResetReleased (x : Straps) (s : State) : Host.Outcome State Fault Refusal :=
  if s.resetPin = .high then .next s
  else
    let t := { s with resetPin := .high }
    match t.restart with
    | .awaitingRelease => .next (release t x)
    | .running => .next t
    | .begun _ => .next t

end Sys2Proof.Machine
end

