-- ==== Sys2Proof/Machine/RecoveryCommands.lean ====
section
/-! DEFINITION. The supervisor's recovery commands: REINIT (R131), RESUME (R170), CLEAR_SUSPECT (R133), RESTART
(R171). -/

namespace Sys2Proof.Machine

/-! ### REINIT (R131) -/

/-- Whether every FIFO and admission slot is empty. -/
def engineEmpty (s : State) : Bool := allPorts.all fun p => (s.fifo p).isEmpty && (s.slot p).isNone

/-- The state of an accepted REINIT while its first step runs (R131): INITIALIZING, debt 0, no idle timer. -/
def prepareInit (s : State) (step : InitStep) (timer : Option Timer) : State :=
  s.setSeq { s.seq with
    dram := .initializing step, debt := 0, urgent := false, idle := false, pdTimer := none, srTimer := none
    kept := [], opTimer := timer }

/-- An accepted REINIT, by the DRAM state; none where the answer is BUSY. -/
def acceptReinit (s : State) : Option State :=
  match s.seq.dram with
  | .failed => if s.clock.ref = .locked then some (startInit s) else none
  | .ready =>
    if engineEmpty s && !s.retentionHold then
      if s.seq.bus = .refresh then some (prepareInit s .awaitRefresh s.seq.opTimer) else some (startInit s)
    else none
  | .powerDown k =>
    if engineEmpty s && !s.retentionHold then
      if s.seq.residency.isSome then some (prepareInit s (.residency k) none)
      else some (prepareInit s (.leavePowerDown k) (opTimer s (pdExitNs k)))
    else none
  | .uninitialized | .initializing _ | .enteringSr _ _ | .selfRefresh _ | .waking _ _ | .retention _ _ => none

def serveReinit (s : State) (q : Request) : State :=
  match acceptReinit s with
  | some t => { t with seq := { t.seq with reinit := some q.replyTo } }
  | none => answer s q.replyTo .busy

def execReinit (p : Port) (tb : Byte) (pl : List Byte) (s : State) : Host.Outcome State Fault Refusal :=
  request p .reinit tb pl (fun t q => withFields t q readEmpty fun _ => serveReinit t q) s

/-! ### RESUME (R170) -/

def serveResume (s : State) (q : Request) : State :=
  if s.clock.ref ≠ .locked then answer s q.replyTo .notLocked
  else
    let t := answer s q.replyTo .ok
    match t.seq.dram with
    | .retention range _ => wakeRetention t range
    | _ => t

def execResume (p : Port) (tb : Byte) (pl : List Byte) (s : State) : Host.Outcome State Fault Refusal :=
  request p .resume tb pl (fun t q => withFields t q readEmpty fun _ => serveResume t q) s

/-! ### CLEAR_SUSPECT (R133) -/

def serveClearSuspect (s : State) (q : Request) : State :=
  if s.seq.condition = .suspect then
    postAll (answer (s.setSeq { s.seq with condition := .retained }) q.replyTo .ok) (.memory .retained)
  else answer s q.replyTo .ok

def execClearSuspect (p : Port) (tb : Byte) (pl : List Byte) (s : State) : Host.Outcome State Fault Refusal :=
  request p .clearSuspect tb pl (fun t q => withFields t q readEmpty fun _ => serveClearSuspect t q) s

/-! ### RESTART (R171) -/

/-- RESTART: answered OK; the restart begins when that reply has been sent or is discarded. -/
def serveRestart (s : State) (q : Request) : State := handReply s q.replyTo false true okPayload

def execRestart (p : Port) (tb : Byte) (pl : List Byte) (s : State) : Host.Outcome State Fault Refusal :=
  request p .restart tb pl (fun t q => withFields t q readEmpty fun _ => serveRestart t q) s

end Sys2Proof.Machine
end

