-- ==== Sys2Proof/Machine/RegionCommands.lean ====
section
/-! DEFINITION. The region table's commands (chapter 3): DEFINE_REGION, ALTER_REGION, DELETE_REGION, QUERY_REGION. -/

namespace Sys2Proof.Machine

/-! ### DEFINE_REGION (R40 to R42) -/

/-- Whether two page ranges share a page (R42). -/
def sharesPage (base count base2 count2 : Nat) : Bool := base < base2 + count2 && base2 < base + count

/-- Whether a range shares a page with any defined region (R42). -/
def overlapsAny (s : State) (base count : Nat) : Bool :=
  allRegions.any fun id => match s.region id with
    | some r => sharesPage base count r.basePage r.pageCount
    | none => false

/-- The record of a region as it is defined (R41). -/
def newRegion (f : DefineFields) (shared : Bool) (loss : LossAction) : Region where
  basePage := f.basePage
  pageCount := f.pageCount
  label := labelValue f.label
  sharedAllowed := shared
  recallMs := f.recallMs
  lossAction := loss
  state := .free
  epoch := 0
  holders := []
  offer := none
  recallDeadline := none
  queue := []

/-- Checks 3 to 5 of R40 on an undefined slot: the first failure's status, or the record to store. -/
def defineRecord (s : State) (f : DefineFields) : Status ⊕ Region :=
  if f.pageCount = 0 ∨ 65536 < f.basePage + f.pageCount then .inl .badParam
  else if 60000 < f.recallMs then .inl .badParam
  else match boolOf f.shared, lossActionOf f.lossAction with
    | some shared, some loss =>
      if overlapsAny s f.basePage f.pageCount then .inl .overlap else .inr (newRegion f shared loss)
    | _, _ => .inl .badParam

/-- DEFINE_REGION, its encoding right (R40, R41). -/
def serveDefine (s : State) (q : Request) (f : DefineFields) : State :=
  if h : f.id.toNat < 32 then
    let id : RegionId := ⟨f.id.toNat, h⟩
    match s.region id with
    | some _ => answer s q.replyTo .regionExists
    | none =>
      match defineRecord s f with
      | .inl st => answer s q.replyTo st
      | .inr r => reply (s.setRegion id (some r)) q.replyTo [Status.ok.code, f.id]
  else answer s q.replyTo .badParam

def execDefineRegion (p : Port) (tb : Byte) (pl : List Byte) (s : State) : Host.Outcome State Fault Refusal :=
  request p .defineRegion tb pl (fun t q => withFields t q readDefine (serveDefine t q)) s

/-! ### ALTER_REGION (R43, R44) -/

/-- Whether anything SHARED is present: a holder, the offer or a claim (R43). -/
def sharedPresent (r : Region) : Bool :=
  r.holders.any (fun h => decide (h.mode = .shared)) ||
    (match r.offer with
      | some o => decide (o.mode = .shared)
      | none => false) ||
    r.queue.any fun c => decide (c.mode = .shared)

/-- A present field's value as its named value, or none where it is no code. An absent field keeps the old value. -/
def altered {α : Type} (field : Option Byte) (named : Byte → Option α) (old : α) : Option α :=
  match field with
  | some b => named b
  | none => some old

/-- The checks of R43 and the record with every present field stored. -/
def alterRecord (r : Region) (f : AlterFields) : Status ⊕ Region :=
  let within := f.recallMs.getD r.recallMs
  match altered f.shared boolOf r.sharedAllowed, altered f.lossAction lossActionOf r.lossAction with
  | some shared, some loss =>
    if f.recallMs.isSome ∧ 60000 < within then .inl .badParam
    else if f.shared = some 0 ∧ sharedPresent r then .inl .regionBusy
    else .inr { r with
      label := match f.label with
        | some l => labelValue l
        | none => r.label
      recallMs := within, lossAction := loss, sharedAllowed := shared }
  | _, _ => .inl .badParam

def serveAlter (s : State) (q : Request) (f : AlterFields) : State :=
  withRegion s q f.id fun id r =>
    match alterRecord r f with
    | .inl st => answer s q.replyTo st
    | .inr r' => answer (s.setRegion id (some r')) q.replyTo .ok

def execAlterRegion (p : Port) (tb : Byte) (pl : List Byte) (s : State) : Host.Outcome State Fault Refusal :=
  request p .alterRegion tb pl (fun t q => withFields t q readAlter (serveAlter t q)) s

/-! ### DELETE_REGION (R45) -/

/-- Whether the region can be deleted: FREE, or FENCED with an empty queue. -/
def deletable (r : Region) : Bool := decide (r.state = .free) || (decide (r.state = .fenced) && r.queue.isEmpty)

def serveDelete (s : State) (q : Request) (b : Byte) : State :=
  withRegion s q b fun id r =>
    if deletable r then answer (s.setRegion id none) q.replyTo .ok else answer s q.replyTo .regionBusy

def execDeleteRegion (p : Port) (tb : Byte) (pl : List Byte) (s : State) : Host.Outcome State Fault Refusal :=
  request p .deleteRegion tb pl (fun t q => withFields t q readOne (serveDelete t q)) s

/-! ### QUERY_REGION (R47, R48) -/

/-- Whether a holder is live (R48). -/
def liveHolder (s : State) (h : Holder) : Bool := !h.lost && decide (s.presentSession h.port = some h.session)

def holderField (s : State) (h : Holder) : List Byte :=
  [portCode h.port, h.session, h.mode.code,
    u8 ((if h.releasing then 1 else 0) + (if h.revokePending then 2 else 0) +
      (if liveHolder s h then 4 else 0))]

def claimField (c : Claim) : List Byte := [portCode c.port, c.session, c.mode.code, u8 c.priority]

def offerField (s : State) : Option Offer → List Byte
  | some o => [portCode o.port, o.session, o.mode.code] ++ le16 (msRemaining s.now o.deadline)
  | none => [0xFF, 0, 0, 0, 0]

/-- The QUERY_REGION reply (R47, section 12.3). -/
def queryPayload (s : State) (b : Byte) (r : Region) : List Byte :=
  [Status.ok.code, b] ++ le16 r.basePage ++ le32 r.pageCount ++ [boolCode r.sharedAllowed] ++ le16 r.recallMs ++
    [r.lossAction.code, r.state.code] ++ le16 r.epoch.toNat ++ labelField r.label ++
    timeField (r.recallDeadline.map (msRemaining s.now)) ++ offerField s r.offer ++
    [u8 r.holders.length] ++ r.holders.flatMap (holderField s) ++
    [u8 r.queue.length] ++ r.queue.flatMap claimField

def serveQuery (s : State) (q : Request) (b : Byte) : State :=
  withRegion s q b fun _ r => reply s q.replyTo (queryPayload s b r)

def execQueryRegion (p : Port) (tb : Byte) (pl : List Byte) (s : State) : Host.Outcome State Fault Refusal :=
  request p .queryRegion tb pl (fun t q => withFields t q readOne (serveQuery t q)) s

end Sys2Proof.Machine
end

