-- ==== Sys2Proof/Machine/SequencerCommands.lean ====
section
/-! DEFINITION. The events of the Memory Sequencer: the ends of its operations and the expiries of its timers
(chapters 7, 8, 10). -/

namespace Sys2Proof.Machine

/-- The end of the operation in progress: time reaches it, and its timer stops. -/
def endOp (s : State) : State :=
  let t := s.reachTimer s.seq.opTimer
  t.setSeq { t.seq with opTimer := none }

/-! ### Refreshes (R126 to R128) -/

/-- REFRESH_COMPLETE: the refresh in progress completes, and the arbiter or the running entry goes on. -/
def execRefreshComplete (s : State) : Host.Outcome State Fault Refusal :=
  if s.seq.bus = .refresh then
    let t := endOp s
    let u := t.setSeq { t.seq with bus := .free, urgent := t.seq.urgent && decide (0 < t.seq.debt) }
    match u.seq.dram with
    | .enteringSr purpose .payDebt => .next (settle (payDebt u purpose))
    | .initializing .awaitRefresh => .next (startInit u)
    | _ => .next (settle u)
  else .next s

/-- A refresh overrun (R128): the count, FAULT, and the condition SUSPECT; rows may have lost charge (log 11). -/
def overrun (s : State) : State :=
  let t := { s with
    memory := s.memory.losingCharge
    seq := { s.seq with overruns := min 65535 (s.seq.overruns + 1) } }
  markSuspect (postSupervisor t (.fault .refreshOverrun))

/-- What a tick adds to the debt (R127). -/
def raiseDebt (s : State) : State :=
  if 8 ≤ s.seq.debt then overrun s else s.setSeq { s.seq with debt := s.seq.debt + 1 }

/-- A tick in POWER_DOWN wakes the DRAM at the high water (R141). -/
def tickPowerDown (s : State) : State :=
  if s.params.refreshHighWater ≤ s.seq.debt then pdCause s .highWater else s

/-- What a tick does, by the DRAM state (R127). -/
def tickDebt (s : State) : State :=
  match s.seq.dram with
  | .ready | .waking _ _ => raiseDebt s
  | .powerDown _ => tickPowerDown (raiseDebt s)
  | .uninitialized | .initializing _ | .failed | .enteringSr _ _ | .selfRefresh _ | .retention _ _ => s

/-- REFRESH_TICK: the next period starts with the band's length, and the debt may rise (R127). -/
def execRefreshTick (s : State) : Host.Outcome State Fault Refusal :=
  let t := s.reach s.seq.tick.deadline
  let u := t.setSeq { t.seq with tick := t.timer (refreshPeriod t.thermal.band) }
  .next (settle (tickDebt u))

/-! ### Idle timers (R138, R142) -/

/-- The power-down kind chosen at entry (R138). -/
def pdKindAtEntry (s : State) : PdKind :=
  if anyBankOpen s.seq then .active
  else match s.params.pdExit with
    | .fast => .prechargeFast
    | .slow => .prechargeSlow

/-- PD_TIMER_EXPIRY: the DRAM, still idle, enters power-down for at least 30 ns (R138, R139). -/
def execPdTimerExpiry (s : State) : Host.Outcome State Fault Refusal :=
  match s.seq.pdTimer with
  | some x =>
    if s.seq.dram = .ready then
      let t := s.reach x.deadline
      .next (settle (t.setSeq { t.seq with
        dram := .powerDown (pdKindAtEntry t), idle := false, pdTimer := none
        residency := some (t.timer 30), kept := [] }))
    else .next s
  | none => .next s

/-- SR_TIMER_EXPIRY: with the DRAM idle in READY, or in POWER_DOWN (R142). -/
def execSrTimerExpiry (s : State) : Host.Outcome State Fault Refusal :=
  match s.seq.srTimer with
  | some x =>
    let t := s.reach x.deadline
    match t.seq.dram with
    | .ready => .next (settle (srExpiryIdle t))
    | .powerDown _ => .next (pdCause (t.setSeq { t.seq with srTimer := none }) .srExpiry)
    | _ => .next s
  | none => .next s

/-! ### Power-down (R139, R140) -/

/-- PD_RESIDENCY_END: the causes kept are acted on in their order, and a DRAM that a retention entry still finds in
POWER_DOWN leaves it (R139, R164); an accepted REINIT leaves power-down. -/
def execPdResidencyEnd (s : State) : Host.Outcome State Fault Refusal :=
  match s.seq.residency with
  | some x =>
    let t := s.reach x.deadline
    let u := t.setSeq { t.seq with residency := none, kept := [] }
    match t.seq.dram with
    | .initializing (.residency k) =>
      .next (u.setSeq { u.seq with dram := .initializing (.leavePowerDown k), opTimer := opTimer u (pdExitNs k) })
    | _ => .next (settle (retainPowerDown (t.seq.kept.foldl takeKept u)))
  | none => .next s

/-- PD_EXIT_COMPLETE: the exit latency ends, and the state goes on to READY, the entry, or init (R140, R143, R131). -/
def execPdExitComplete (s : State) : Host.Outcome State Fault Refusal :=
  match s.seq.dram with
  | .waking _ (.powerDown _) =>
    let t := endOp s
    .next (settle (t.setSeq { t.seq with dram := .ready }))
  | .enteringSr purpose (.leavePowerDown _) => .next (settle (closeBanks (endOp s) purpose))
  | .initializing (.leavePowerDown _) => .next (startInit (endOp s))
  | _ => .next s

/-! ### Entries and wakes (R143, R148, R149, R165, R169) -/

/-- BANK_CLOSE_COMPLETE: every bank is CLOSED, and the debt is paid (R143). -/
def execBankCloseComplete (s : State) : Host.Outcome State Fault Refusal :=
  match s.seq.dram with
  | .enteringSr purpose .closeBanks =>
    let t := endOp s
    .next (settle (payDebt (t.setSeq { t.seq with banks := allClosed }) purpose))
  | _ => .next s

/-- The DRAM reaches READY at the end of a wake from self refresh or retention (R149, R169). -/
def wakeReady (s : State) : State := settle (s.setSeq { s.seq with dram := .ready, banks := allClosed })

/-- WAKE_COMPLETE: the 700 ns of a wake from self refresh or retention end. With a retention entry running, the wake
ends in READY whatever its target (R164). -/
def execWakeComplete (s : State) : Host.Outcome State Fault Refusal :=
  match s.seq.dram with
  | .waking .ready .selfRefresh => .next (wakeReady (endOp s))
  | .waking .selfRefresh .selfRefresh =>
    if s.seq.retEntry.isSome then .next (wakeReady (endOp s)) else .next (settle (payDebt (endOp s) .selfRefresh))
  | .waking _ (.retention _) =>
    let t := endOp s
    .next (wakeReady (t.setSeq { t.seq with srRef := some t.now }))
  | _ => .next s

/-- RETENTION_DRAIN_END: no started entry remains and nothing is in progress; the banks are closed and the debt paid
(R165). -/
def execRetentionDrainEnd (s : State) : Host.Outcome State Fault Refusal :=
  if s.seq.dram = .ready ∧ s.seq.bus = .free ∧ drainOver s then .next (settle (closeBanks s .retention)) else .next s

/-! ### Init (R129, R130) -/

/-- RESET_HOLD_COMPLETE: the reset hold ends, and mode setting begins. -/
def execResetHoldComplete (s : State) : Host.Outcome State Fault Refusal :=
  if s.seq.dram = .initializing .resetHold then .next (s.setSeq { s.seq with dram := .initializing .modeSetting })
  else .next s

/-- MODE_SETTING_COMPLETE: mode setting ends, and training begins. -/
def execModeSettingComplete (s : State) : Host.Outcome State Fault Refusal :=
  if s.seq.dram = .initializing .modeSetting then .next (s.setSeq { s.seq with dram := .initializing .training })
  else .next s

/-- Init ends in READY (R130, R131): a MEMORY notice only where it is the init of a REINIT not yet answered (log 35). -/
def initSucceeds (s : State) : State :=
  let t := { s with
    memory := s.memory.withPatterns
    seq := { s.seq with
      dram := .ready, banks := allClosed, debt := 0, condition := .fresh, srRef := some s.now, reinit := none } }
  match s.seq.reinit with
  | some q => settle (answer (postAll t (.memory .freshByReinit)) q .ok)
  | none => settle t

/-- Init ends in FAILED (R130, R131). -/
def initFails (s : State) : State :=
  let t := postSupervisor
    { s with memory := s.memory.withPatterns, seq := { s.seq with dram := .failed, reinit := none } }
    (.fault .initFailed)
  match s.seq.reinit with
  | some q => answer t q .memoryFailed
  | none => t

/-- TRAINING_COMPLETE: init ends, with a working delay on both byte lanes or not (R130). -/
def execTrainingComplete (l0 l1 : Bool) (s : State) : Host.Outcome State Fault Refusal :=
  if s.seq.dram = .initializing .training then
    if l0 && l1 then .next (initSucceeds s) else .next (initFails s)
  else .next s

end Sys2Proof.Machine
end

