-- ==== Sys2Proof/Machine/SessionCommands.lean ====
section
/-! DEFINITION. The commands of the Session Manager (chapter 2): HELLO, LEAVE, PING, STATUS, EVICT_PORT,
SILENCE_TIMEOUT, LEAVE_DRAIN_END. -/

namespace Sys2Proof.Machine

/-! ### HELLO (R21 to R24) -/

/-- The fields of the HELLO reply after the status (R24, section 12.3). -/
def helloPayload (s : State) (p : Port) : List Byte :=
  [Status.ok.code, portCode p, (s.session p).number, boolCode (decide (s.supervisor = p)), portCode s.supervisor, 1,
    s.bootCause.code, s.seq.condition.code, s.seq.dram.code, s.seq.dram.detail, s.clock.ref.code]

/-- A session opens on a CLOSED port, and the HELLO's entry is recorded under it (R22, steps 1 to 5). -/
def openSession (s : State) (p : Port) (tag : Tag) (credit : Nat) (label : List Byte) : State :=
  let n := (s.session p).number + 1
  let l := s.link p
  let k := s.params.keepaliveMs
  s.setPort p
    { s.port p with
      session := ⟨.opened, n, labelValue label, if k = 0 then none else some (s.timer (ms k))⟩
      link := { l with
        cache := noReplies, credit := credit
        inFlight := l.withEntry tag (.taken (some n)) }
      notices := Notices.reset }

/-- The session opens and the reply is handed over under it (R22, step 6). -/
def openAndReply (s : State) (q : Request) (f : HelloFields) : State :=
  let p := q.replyTo.port
  let t := openSession s p q.replyTo.tag f.credit f.label
  reply t { q.replyTo with session := some (t.session p).number } (helloPayload t p)

/-- HELLO, its encoding right (R21 to R23): an existing session is first lost with cause REHELLO. A restart whose OK
the loss discarded begins after the new session's reply (R171): the model's choice (log 39). -/
def serveHello (s : State) (q : Request) (f : HelloFields) : State :=
  let p := q.replyTo.port
  if 16 < f.credit then answer s q.replyTo .badParam
  else if (s.session p).live then
    restartIf (openAndReply (settle (loseSession s p .rehello (some q.replyTo.tag))) q f) (discardsRestart s p)
  else openAndReply s q f

def execHello (p : Port) (tb : Byte) (pl : List Byte) (s : State) : Host.Outcome State Fault Refusal :=
  request p .hello tb pl (fun t q => withFields t q readHello (serveHello t q)) s

/-! ### LEAVE (R25 to R27) -/

/-- LEAVE: the port is CLOSING, and the silence timer stops (R25). The reply waits for the drain's end. -/
def serveLeave (s : State) (q : Request) : State :=
  let p := q.replyTo.port
  s.setSession p { s.session p with state := .closing q.replyTo.tag, silence := none }

def execLeave (p : Port) (tb : Byte) (pl : List Byte) (s : State) : Host.Outcome State Fault Refusal :=
  request p .leave tb pl (fun t q => withFields t q readEmpty fun _ => serveLeave t q) s

/-- The end of the first phase: FIFO and admission slot empty, and no tag in flight but the LEAVE's (R26). -/
def leaveDrained (s : State) (p : Port) (leaveTag : Tag) : Bool :=
  (s.fifo p).isEmpty && (s.slot p).isNone &&
    (List.finRange 8).all fun t => decide (t = leaveTag) || decide ((s.link p).entry t = .free)

/-- The close of an orderly end (R27): the cache cleared, the LEAVE reply, CLOSED, no credit and no notices. -/
def closeOrderly (s : State) (p : Port) (leaveTag : Tag) : State :=
  let cleared := s.setLink p { s.link p with cache := noReplies }
  let t := reply cleared ⟨p, leaveTag, s.presentSession p, .leave⟩ okPayload
  t.setPort p
    { t.port p with
      session := (t.session p).close, link := { t.link p with credit := 0 }, notices := (t.notices p).clear }

/-- LEAVE_DRAIN_END: the second phase, and the close (R26, R27). -/
def execLeaveDrainEnd (p : Port) (s : State) : Host.Outcome State Fault Refusal :=
  match (s.session p).state with
  | .closing leaveTag =>
    if s.isRunning && leaveDrained s p leaveTag then
      .next (closeOrderly (leaveLeases s p (s.session p).number) p leaveTag)
    else .next s
  | .closed => .next s
  | .opened => .next s

/-! ### PING and STATUS (R29, R30) -/

def execPing (p : Port) (tb : Byte) (pl : List Byte) (s : State) : Host.Outcome State Fault Refusal :=
  request p .ping tb pl (fun t q => withFields t q readEmpty fun _ => answer t q.replyTo .ok) s

/-- A port's part of the STATUS reply. -/
def statusOfPort (s : State) (p : Port) : List Byte :=
  [(s.session p).state.code, (s.session p).number, u8 (s.link p).credit, u8 (s.notices p).queue.length,
    u8 (s.notices p).lost] ++ labelField (s.session p).label

/-- The STATUS reply (R30, section 12.3). -/
def statusPayload (s : State) : List Byte :=
  [Status.ok.code, s.clock.ref.code, s.thermal.band.code] ++ readingField s.thermal.reading ++
    [s.seq.dram.code, s.seq.dram.detail, s.seq.condition.code, u8 s.seq.debt] ++ le16 s.seq.overruns ++
    [portCode s.supervisor] ++ allPorts.flatMap (statusOfPort s)

def execStatus (p : Port) (tb : Byte) (pl : List Byte) (s : State) : Host.Outcome State Fault Refusal :=
  request p .status tb pl (fun t q => withFields t q readEmpty fun _ => reply t q.replyTo (statusPayload t)) s

/-! ### Silence and eviction (R31, R32) -/

/-- SILENCE_TIMEOUT: the silence timer of an OPEN port expires (R31). -/
def execSilenceTimeout (p : Port) (s : State) : Host.Outcome State Fault Refusal :=
  match (s.session p).silence with
  | some t => if s.isRunning then .next (loseEvent (s.reach t.deadline) p .silence) else .next s
  | none => .next s

/-- EVICT_PORT of a port index (R32): the OK is handed over before the SESSION_LOST of the loss is posted. -/
def serveEvict (s : State) (q : Request) (index : Byte) : State :=
  match portOfIndex index.toNat with
  | none => answer s q.replyTo .badParam
  | some victim =>
    if victim = s.supervisor then answer s q.replyTo .badParam
    else
      let t := answer s q.replyTo .ok
      if (t.session victim).live then loseEvent t victim .evicted else t

def execEvictPort (p : Port) (tb : Byte) (pl : List Byte) (s : State) : Host.Outcome State Fault Refusal :=
  request p .evictPort tb pl (fun t q => withFields t q readOne (serveEvict t q)) s

end Sys2Proof.Machine
end

