-- ==== Sys2Proof/Machine/ThermalCommands.lean ====
section
/-! DEFINITION. The Thermal Monitor (chapter 9): THERMAL_SAMPLE. -/

namespace Sys2Proof.Machine

/-- The band without hysteresis (R153). -/
def bandFresh (w h : Int) (t : Int) : Band := if h ≤ t then .hot else if w ≤ t then .warm else .normal

/-- The band after a valid sample (R152, R153). -/
def bandAfter (w h : Int) (before : Band) (t : Int) : Band :=
  match before with
  | .unknown => bandFresh w h t
  | .normal => bandFresh w h t
  | .warm => if h ≤ t then .hot else if t ≤ w - 3 then .normal else .warm
  | .hot => if t ≤ w - 3 then .normal else if t ≤ h - 3 then .warm else .hot

/-- A conversion's result, if the sample is valid (R151). -/
def validReading (r : Option Int) : Option Int :=
  match r with
  | some t => if -40 ≤ t ∧ t ≤ 150 then some t else none
  | none => none

/-- The band after a sample, UNKNOWN after an invalid one (R154). -/
def bandOfSample (q : Params) (before : Band) : Option Int → Band
  | some t => bandAfter q.warmThreshold q.hotThreshold before t
  | none => .unknown

/-- A band change at the Notice Unit, then FAULT SENSOR for an entry into UNKNOWN, then the Sequencer (R154, R156). -/
def announceBand (s : State) : State :=
  let t := postAll s (.thermal s.thermal.band s.thermal.reading)
  let u := if s.thermal.band = .unknown then postSupervisor t (.fault .sensor) else t
  settle (bandChanged u)

/-- A sample is taken at a moment: the sample timer restarts, the next conversion starts, and the sample sets the
reading and the band (R151 to R154). -/
def takeSample (s : State) (r : Option Int) : State :=
  let reading := validReading r
  let band := bandOfSample s.params s.thermal.band reading
  let t := { s with thermal := ⟨reading, band, some (s.timer 1000000), true⟩ }
  if band = s.thermal.band then t else announceBand t

/-- THERMAL_SAMPLE (R151 to R154): none while RESET# is low (R159), nor while the sample timer is stopped.
The timer's deadline stands while RESET# is low: the model's choice (log 38). -/
def execThermalSample (r : Option Int) (s : State) : Host.Outcome State Fault Refusal :=
  if s.resetPin = .low then .next s
  else match s.thermal.sampleTimer with
    | none => .next s
    | some x => .next (takeSample (s.reach x.deadline) r)

end Sys2Proof.Machine
end

