-- ==== Sys2Proof/Machine/TransactionCommands.lean ====
section
/-! DEFINITION. The memory transactions' commands (chapter 6): READ, WRITE, FILL, ADMISSION_SLOT_RELEASE,
BURST_COMPLETE. -/

namespace Sys2Proof.Machine

/-! ### Requests (R97 to R104) -/

/-- A request that passes every check enters the FIFO (R103). It cannot start in this event (R117): the arbiter serves
the heads that stood before it, and then the new head ends idle and wakes a sleeping DRAM. -/
def admitTx (s : State) (p : Port) (e : Entry) : State :=
  let t := arbiter s
  wakeForHeads (updateIdle (t.setFifo p (t.fifo p ++ [e])))

/-- A READ, WRITE or FILL checked, and answered or admitted (R100 to R103). -/
def takeTx (s : State) (k : TxKind) (q : Request) : State :=
  match q.fields (readTx k) with
  | none => answer s q.replyTo .badFormat
  | some f =>
    if lengthInRange k f.length then
      match lookup s f.id with
      | none => answer s q.replyTo .noRegion
      | some (id, r) =>
        match holderIn r q.replyTo.port q.replyTo.session with
        | none => answer s q.replyTo .notHeld
        | some h =>
          match txRefusal s k f r h with
          | some st => answer s q.replyTo st
          | none =>
            admitTx s q.replyTo.port (newEntry q h.session k f id r)
    else answer s q.replyTo .badParam

/-- A transaction request at the Engine: checked, or, while the FIFO holds 8, held in the admission slot (R104). With
room in the FIFO a request is checked though another is still held: the model's choice (log 34). -/
def serveTx (s : State) (k : TxKind) (q : Request) : Host.Outcome State Fault Refusal :=
  if (s.fifo q.replyTo.port).length < 8 then .next (takeTx s k q)
  else match s.slot q.replyTo.port with
    | none => .next (s.setSlot q.replyTo.port (some q))
    | some _ => .fault .admissionSlotOccupied

def execRead (p : Port) (tb : Byte) (pl : List Byte) (s : State) : Host.Outcome State Fault Refusal :=
  request p .read tb pl (fun t q => serveTx t .read q) s

def execWrite (p : Port) (tb : Byte) (pl : List Byte) (s : State) : Host.Outcome State Fault Refusal :=
  request p .write tb pl (fun t q => serveTx t .write q) s

def execFill (p : Port) (tb : Byte) (pl : List Byte) (s : State) : Host.Outcome State Fault Refusal :=
  request p .fill tb pl (fun t q => serveTx t .fill q) s

/-- ADMISSION_SLOT_RELEASE: with room in the FIFO, the held request is taken (R104), whatever made the room: the
model's choice (log 33). -/
def execAdmissionSlotRelease (p : Port) (s : State) : Host.Outcome State Fault Refusal :=
  if (s.fifo p).length < 8 then
    match s.slot p with
    | none => .next s
    | some q =>
      match q.replyTo.kind.tx with
      | some k => .next (takeTx (s.setSlot p none) k q)
      | none => .next s
  else .next s

/-! ### BURST_COMPLETE (R105, R109, R110, R120, R124) -/

/-- What the burst stores: the masked bytes of a WRITE or FILL (R105). -/
def storeBurst (m : Memory) (e : Entry) : Memory := m.writeRun e.burstStart e.burstData

/-- The bank after a burst that ends with an automatic precharge (R120). -/
def prechargeAfter (q : Sequencer) (a : Nat) (precharge : Bool) : Sequencer :=
  let banks := if precharge then q.banks.set (bankOf a).val .closed (bankOf a).isLt else q.banks
  { q with banks := banks, bus := .free }

/-- Whether a READ's reply carries the SUSPECT flag (R109). -/
def suspectFlag (s : State) (e : Entry) : Bool :=
  decide (e.kind = .read) && decide (s.seq.condition = .suspect)

/-- The head after a burst: complete, cut, or with its next burst to offer (R106, R109, R110). -/
def advanceHead (s : State) (p : Port) (e : Entry) (rest : List Entry) : State :=
  let e' := { e with done := e.done + 1, issued := false }
  if e'.bursts ≤ e'.done then endEntry (s.setFifo p rest) p e' e'.donePayload (suspectFlag s e')
  else if e'.kind = .fill ∧ e'.stop.isSome then endEntry (s.setFifo p rest) p e' e'.cutPayload false
  else s.setFifo p (e' :: rest)

/-- The issued burst of the head completes. -/
def completeBurst (s : State) (p : Port) (precharge : Bool) (e : Entry) (rest : List Entry) : State :=
  settle (advanceHead
    { s with memory := storeBurst s.memory e, seq := prechargeAfter s.seq (e.blockAddr e.done) precharge } p e rest)

/-- The burst in progress completes. -/
def endBurst (s : State) : Host.Outcome State Fault Refusal :=
  match s.seq.bus with
  | .burst p precharge =>
    match s.fifo p with
    | [] => .next s
    | e :: rest =>
      if dramSize < e.burstStart + e.burstBytes then .fault .burstOutsideDram
      else .next (completeBurst s p precharge e rest)
  | .free => .next s
  | .refresh => .next s

/-- BURST_COMPLETE: the burst that completes may be one whose start was due since its admission (R117, log 7). -/
def execBurstComplete (s : State) : Host.Outcome State Fault Refusal := endBurst (startDue s)

end Sys2Proof.Machine
end

