-- ==== Sys2Proof/Machine/Dispatch.lean ====
section
/-! DEFINITION. The meaning of each command: one arm per constructor of `Instr`. -/

namespace Sys2Proof.Machine

def exec (i : Instr) (s : State) : Host.Outcome State Fault Refusal :=
  match i with
  | .powerOn x => Sys2Proof.Machine.execPowerOn x s
  | .resetAsserted => Sys2Proof.Machine.execResetAsserted s
  | .warmRestartReset x => Sys2Proof.Machine.execWarmRestartReset x s
  | .resetReleased x => Sys2Proof.Machine.execResetReleased x s
  | .gapTimeout p bs => Sys2Proof.Machine.execGapTimeout p bs s
  | .badFrame p bs => Sys2Proof.Machine.execBadFrame p bs s
  | .badKindFrame p k tb pl => Sys2Proof.Machine.execBadKindFrame p k tb pl s
  | .credit p tb pl => Sys2Proof.Machine.execCredit p tb pl s
  | .resend p tb pl => Sys2Proof.Machine.execResend p tb pl s
  | .hello p tb pl => Sys2Proof.Machine.execHello p tb pl s
  | .leave p tb pl => Sys2Proof.Machine.execLeave p tb pl s
  | .ping p tb pl => Sys2Proof.Machine.execPing p tb pl s
  | .status p tb pl => Sys2Proof.Machine.execStatus p tb pl s
  | .setParam p tb pl => Sys2Proof.Machine.execSetParam p tb pl s
  | .getParam p tb pl => Sys2Proof.Machine.execGetParam p tb pl s
  | .defineRegion p tb pl => Sys2Proof.Machine.execDefineRegion p tb pl s
  | .alterRegion p tb pl => Sys2Proof.Machine.execAlterRegion p tb pl s
  | .deleteRegion p tb pl => Sys2Proof.Machine.execDeleteRegion p tb pl s
  | .queryRegion p tb pl => Sys2Proof.Machine.execQueryRegion p tb pl s
  | .claim p tb pl => Sys2Proof.Machine.execClaim p tb pl s
  | .accept p tb pl => Sys2Proof.Machine.execAccept p tb pl s
  | .withdraw p tb pl => Sys2Proof.Machine.execWithdraw p tb pl s
  | .release p tb pl => Sys2Proof.Machine.execRelease p tb pl s
  | .revoke p tb pl => Sys2Proof.Machine.execRevoke p tb pl s
  | .unfence p tb pl => Sys2Proof.Machine.execUnfence p tb pl s
  | .read p tb pl => Sys2Proof.Machine.execRead p tb pl s
  | .write p tb pl => Sys2Proof.Machine.execWrite p tb pl s
  | .fill p tb pl => Sys2Proof.Machine.execFill p tb pl s
  | .reinit p tb pl => Sys2Proof.Machine.execReinit p tb pl s
  | .resume p tb pl => Sys2Proof.Machine.execResume p tb pl s
  | .clearSuspect p tb pl => Sys2Proof.Machine.execClearSuspect p tb pl s
  | .restart p tb pl => Sys2Proof.Machine.execRestart p tb pl s
  | .evictPort p tb pl => Sys2Proof.Machine.execEvictPort p tb pl s
  | .frameTransmitted p => Sys2Proof.Machine.execFrameTransmitted p s
  | .silenceTimeout p => Sys2Proof.Machine.execSilenceTimeout p s
  | .leaveDrainEnd p => Sys2Proof.Machine.execLeaveDrainEnd p s
  | .offerDeadlineExpiry id => Sys2Proof.Machine.execOfferDeadlineExpiry id s
  | .recallDeadlineExpiry id => Sys2Proof.Machine.execRecallDeadlineExpiry id s
  | .transactionEndReport => Sys2Proof.Machine.execTransactionEndReport s
  | .admissionSlotRelease p => Sys2Proof.Machine.execAdmissionSlotRelease p s
  | .burstComplete => Sys2Proof.Machine.execBurstComplete s
  | .refreshComplete => Sys2Proof.Machine.execRefreshComplete s
  | .refreshTick => Sys2Proof.Machine.execRefreshTick s
  | .pdTimerExpiry => Sys2Proof.Machine.execPdTimerExpiry s
  | .srTimerExpiry => Sys2Proof.Machine.execSrTimerExpiry s
  | .pdResidencyEnd => Sys2Proof.Machine.execPdResidencyEnd s
  | .pdExitComplete => Sys2Proof.Machine.execPdExitComplete s
  | .bankCloseComplete => Sys2Proof.Machine.execBankCloseComplete s
  | .wakeComplete => Sys2Proof.Machine.execWakeComplete s
  | .resetHoldComplete => Sys2Proof.Machine.execResetHoldComplete s
  | .modeSettingComplete => Sys2Proof.Machine.execModeSettingComplete s
  | .trainingComplete l0 l1 => Sys2Proof.Machine.execTrainingComplete l0 l1 s
  | .thermalSample r => Sys2Proof.Machine.execThermalSample r s
  | .lossWindowExpiry => Sys2Proof.Machine.execLossWindowExpiry s
  | .refEdge => Sys2Proof.Machine.execRefEdge s
  | .lockTimerExpiry => Sys2Proof.Machine.execLockTimerExpiry s
  | .retentionDrainEnd => Sys2Proof.Machine.execRetentionDrainEnd s

end Sys2Proof.Machine
end

