-- ==== Sys2Proof/Machine/Step.lean ====
section
/-! DEFINITION. One step of the hub: the command at the front of the queue is taken, and takes its effect whole. -/

namespace Sys2Proof.Machine

/-- One step. The front of the queue is executed on the state with the queue's rest. With nothing waiting the hub
idles, and one nanosecond passes (log 3), with which a transaction admitted before starts if its start is due (R117). -/
def step (s : State) : Host.Outcome State Fault Refusal :=
  match s.pending with
  | [] => .next (s.reach (s.now + 1))
  | c :: rest => exec c { s with pending := rest }

/-- The state with the command that the word spells at the front of its queue; unchanged where it spells none. -/
def State.withFetchWord (s : State) (nbits w : Nat) : State :=
  match decodeTableWord nbits w with
  | some c => { s with pending := c :: s.pending }
  | none => s

end Sys2Proof.Machine
end

