-- ==== Sys2Proof/Safety.lean ====
section
/-! DEFINITION. What the statements speak of: when a frame is heard and a request taken, what a hand-over leaves, and
the laws that every step keeps. -/

namespace Sys2Proof.Machine

/-! ### Frames that arrive -/

/-- The request command of a kind: every frame of the 24 request kinds is one. -/
def requestCommand (k : Kind) (p : Port) (tb : Byte) (pl : List Byte) : Instr :=
  match k with
  | .hello => .hello p tb pl
  | .leave => .leave p tb pl
  | .ping => .ping p tb pl
  | .status => .status p tb pl
  | .setParam => .setParam p tb pl
  | .getParam => .getParam p tb pl
  | .defineRegion => .defineRegion p tb pl
  | .alterRegion => .alterRegion p tb pl
  | .deleteRegion => .deleteRegion p tb pl
  | .queryRegion => .queryRegion p tb pl
  | .claim => .claim p tb pl
  | .accept => .accept p tb pl
  | .withdraw => .withdraw p tb pl
  | .release => .release p tb pl
  | .revoke => .revoke p tb pl
  | .unfence => .unfence p tb pl
  | .read => .read p tb pl
  | .write => .write p tb pl
  | .fill => .fill p tb pl
  | .reinit => .reinit p tb pl
  | .resume => .resume p tb pl
  | .clearSuspect => .clearSuspect p tb pl
  | .restart => .restart p tb pl
  | .evictPort => .evictPort p tb pl

/-- The port hears frames: no warm restart is in course, and its receiver is in HUNT. -/
abbrev Hears (s : State) (p : Port) : Prop := s.isRunning = true ∧ (s.link p).rx = Receiver.idle

/-- A request with this tag byte and payload is taken when it arrives on the port (R10): heard, its payload within the
limit, its tag free. -/
abbrev Takes (s : State) (p : Port) (tb : Byte) (pl : List Byte) : Prop :=
  Hears s p ∧ pl.length ≤ 320 ∧ (s.link p).entry (tagOf tb) = .free

/-- The checks of R18 pass: an OPEN session, and the supervisor port for the supervisor-only kinds. -/
abbrev Admitted (s : State) (p : Port) (k : Kind) : Prop :=
  (s.session p).state = .opened ∧ (k.supervisorOnly = true → p = s.supervisor)

/-- A taken request of an admitted kind, with no flag bit set. -/
abbrev Reaches (s : State) (p : Port) (k : Kind) (tb : Byte) (pl : List Byte) : Prop :=
  Takes s p tb pl ∧ Admitted s p k ∧ anyFlag tb = false

/-- Where the reply to a request goes, taken now under the port's present session. -/
def replyFor (s : State) (p : Port) (k : Kind) (tb : Byte) : ReplyTo := ⟨p, tagOf tb, s.presentSession p, k⟩

/-- Whether the command is an event of the Memory Sequencer, the Thermal Monitor or the Clock Supervisor. -/
def sequencerEvent : Instr → Bool
  | .burstComplete | .refreshComplete | .refreshTick | .pdTimerExpiry | .srTimerExpiry | .pdResidencyEnd
  | .pdExitComplete | .bankCloseComplete | .wakeComplete | .retentionDrainEnd | .resetHoldComplete
  | .modeSettingComplete | .trainingComplete _ _ | .thermalSample _ | .lossWindowExpiry | .refEdge
  | .lockTimerExpiry => true
  | _ => false

/-! ### Hand-overs -/

/-- The frames on their way out of a port: the one in transmission, and then the response list. -/
def outgoing (s : State) (p : Port) : List Frame :=
  ((s.link p).tx.map Transmission.frame).toList ++ (s.link p).responses.map Response.frame

/-- Nothing but the tables by port differs. -/
def OffPorts (s t : State) : Prop := { t with ports := s.ports } = s

/-- Nothing but the tables by port and the region table differs. -/
def OffRegions (s t : State) : Prop := { t with ports := s.ports, regions := s.regions } = s

/-- Nothing but the tables by port, the region table, the end reports and the Sequencer differs. -/
def OffWork (s t : State) : Prop :=
  { t with ports := s.ports, regions := s.regions, reports := s.reports, seq := s.seq } = s

/-- On one port, nothing but the Link Unit differs. -/
def OffLink (s t : State) (p : Port) : Prop :=
  t.session p = s.session p ∧ t.notices p = s.notices p ∧ t.fifo p = s.fifo p ∧ t.slot p = s.slot p

/-- `t` is `s` with a reply handed over (R11) and nothing else changed: the tag free, the reply cached in its slot and
put at the end of the frames on their way out of the port. -/
structure Answered (s t : State) (r : ReplyTo) (suspect : Bool) (payload : List Byte) : Prop where
  rest : OffPorts s t
  others : ∀ q, q ≠ r.port → t.port q = s.port q
  port : OffLink s t r.port
  rx : (t.link r.port).rx = (s.link r.port).rx
  badFrames : (t.link r.port).badFrames = (s.link r.port).badFrames
  credit : (t.link r.port).credit = (s.link r.port).credit
  freed : (t.link r.port).entry r.tag = .free
  otherTags : ∀ u, u ≠ r.tag → (t.link r.port).entry u = (s.link r.port).entry u
  cached : (t.link r.port).cached r.tag = some (replyFrame r suspect payload)
  otherSlots : ∀ u, u ≠ r.tag → (t.link r.port).cached u = (s.link r.port).cached u
  sent : outgoing t r.port = outgoing s r.port ++ [replyFrame r suspect payload]

/-- `t` is `s` with a REFUSE or NAK handed over (R15), dropped while 16 wait, and nothing else changed. -/
structure Refused (s t : State) (p : Port) (f : Frame) : Prop where
  rest : OffPorts s t
  others : ∀ q, q ≠ p → t.port q = s.port q
  port : OffLink s t p
  link : { t.link p with responses := (s.link p).responses, tx := (s.link p).tx } = s.link p
  sent : outgoing t p = if refusalsWaiting (s.link p) < 16 then outgoing s p ++ [f] else outgoing s p

/-- The command runs, and leaves `base` with the reply handed over. -/
abbrev Answers (c : Instr) (s base : State) (r : ReplyTo) (payload : List Byte) : Prop :=
  ∃ t, exec c s = .next t ∧ Answered base t r false payload

/-- The command runs, and leaves the good frame's report with a reply that is a status alone. -/
abbrev AnswersStatus (c : Instr) (s : State) (r : ReplyTo) (st : Status) : Prop :=
  Answers c s (reportGood s r.port) r [st.code]

/-- The reply to the request stands in its slot of the cache, its tag is free, and the reply is on its way out. -/
structure Replied (t : State) (r : ReplyTo) (payload : List Byte) : Prop where
  freed : (t.link r.port).entry r.tag = .free
  cached : (t.link r.port).cached r.tag = some (replyFrame r false payload)
  sent : replyFrame r false payload ∈ outgoing t r.port

/-- What a session loss leaves of the port's session (R33, step 1, and R16). -/
structure SessionLost (s t : State) (p : Port) : Prop where
  session : t.session p = ⟨.closed, (s.session p).number, none, none⟩
  tags : ∀ u, (t.link p).entry u = .free
  cache : ∀ u, (t.link p).cached u = none
  credit : (t.link p).credit = 0
  responses : ∀ r ∈ (t.link p).responses, r.cls = .nak
  queue : (t.notices p).queue = []
  lost : (t.notices p).lost = 0

/-- What the loss of the session with this number leaves of one region (R87 to R91), whose record was `r` and is now
`r'`: no claim, offer or SHARED lease of it, and its EXCLUSIVE lease marked lost or removed. -/
structure RegionLosesSession (r r' : Region) (p : Port) (n : SessNo) : Prop where
  claims : claimIn r' p (some n) = false
  offer : offerIn r' p (some n) = none
  leases : ∀ h ∈ r'.holders, h.isOf p n = false
  others : ∀ h ∈ r.holders, (h.port ≠ p ∨ h.session ≠ n) → h ∈ r'.holders
  untouched : claimIn r p (some n) = false → offerIn r p (some n) = none → (∀ h ∈ r.holders, h.isOf p n = false) →
    r' = r

/-- How a region that the lost session alone held resolves at the moment `now`, with no offer out and nothing of the
session in its FIFO (R91): FENCED, or by the queue without its claims. -/
def ResolvesLost (r r' : Region) (p : Port) (n : SessNo) (window now : Nat) : Prop :=
  (r.lossAction = .fence →
    r' = { r with queue := eraseClaim p n r.queue, holders := [], recallDeadline := none, state := .fenced }) ∧
  (r.lossAction = .free → eraseClaim p n r.queue = [] →
    r' = { r with queue := [], holders := [], recallDeadline := none, state := .free }) ∧
  ∀ c rest, r.lossAction = .free → eraseClaim p n r.queue = c :: rest →
    r' = { r with
      queue := rest, holders := [], recallDeadline := none, state := .offered
      offer := some ⟨c.port, c.session, c.mode, now + window * 1000000⟩ }

/-- What a session loss leaves of the port's transactions, claims, offers and leases (R33 steps 2 and 3). -/
structure LossLeaves (s t : State) (p : Port) : Prop where
  slot : t.slot p = none
  fifo : ∀ e ∈ t.fifo p, e.session = (s.session p).number → e.started = true
  regions : ∀ i r, s.region i = some r → ∃ r', t.region i = some r' ∧ RegionLosesSession r r' p (s.session p).number
  undefinedSlots : ∀ i, s.region i = none → t.region i = none
  resolved : ∀ i r h r', s.region i = some r → t.region i = some r' → r.holders = [h] → r.offer = none →
    h.isOf p (s.session p).number = true → h.mode = .exclusive → s.fifo p = [] →
    ResolvesLost r r' p (s.session p).number s.params.acceptWindowMs t.now
  sharedFree : ∀ i r h, s.region i = some r → r.holders = [h] → r.offer = none → r.queue = [] →
    h.isOf p (s.session p).number = true → h.mode = .shared →
    t.region i = some { r with holders := [], recallDeadline := none, state := .free }
  waitsForBurst : ∀ i r h e rest, s.region i = some r → r.holders = [h] → h.isOf p (s.session p).number = true →
    h.mode = .exclusive → s.fifo p = e :: rest → e.session = (s.session p).number → e.region = i → e.issued = true →
    (∃ r', t.region i = some r' ∧ r'.holders = [{ h with lost := true }] ∧ r'.epoch = r.epoch) ∧
      ∃ rest', t.fifo p = { e with stop := some .silent } :: rest'

/-- Where the payload of a kind with a label holds the label's length byte (section 12.2). -/
def labelAt : Kind → Option Nat
  | .hello => some 1
  | .defineRegion => some 11
  | .alterRegion => some 6
  | _ => none

/-- A payload whose label ends it wrongly, with the label's length byte at `n`: too short, of another length than the
byte gives, a label of more than 16 characters, or one that is not printable (R186). -/
abbrev BadLabel (pl : List Byte) (n : Nat) : Prop :=
  pl.length ≤ n ∨ pl.length ≠ n + 1 + (pl.getD n 0).toNat ∨ 16 < (pl.getD n 0).toNat ∨
    ∃ b ∈ pl.drop (n + 1), b.toNat < 0x20 ∨ 0x7E < b.toNat

/-- The payload lengths of section 12.2, for the kinds that have one length. -/
def fixedLength : Kind → Option Nat
  | .leave | .ping | .status | .reinit | .resume | .clearSuspect | .restart => some 0
  | .getParam | .deleteRegion | .queryRegion | .accept | .withdraw | .release | .revoke | .unfence | .evictPort => some 1
  | .claim => some 2
  | .setParam => some 3
  | .read => some 9
  | .fill => some 12
  | .hello | .defineRegion | .alterRegion | .write => none

/-- What a port holds right after a reset (R17, R38, R118, R183). -/
structure PortAtReset (x : PortState) : Prop where
  rx : x.link.rx = ⟨.hunt, [], none⟩
  badFrames : x.link.badFrames = 0
  tags : ∀ u, x.link.entry u = .free
  cache : ∀ u, x.link.cached u = none
  credit : x.link.credit = 0
  responses : x.link.responses = []
  tx : x.link.tx = none
  session : x.session = ⟨.closed, 0, none, none⟩
  notices : x.notices = ⟨[], 0, 0⟩
  fifo : x.fifo = []
  slot : x.slot = none

/-- What every reset leaves outside the Memory Sequencer, the Thermal Monitor and the Clock Supervisor (R17, R38, R52,
R118, R183, and the parameters' table of section 2.9). -/
structure BlocksAtReset (t : State) (cause : ResetCause) : Prop where
  ports : ∀ p, PortAtReset (t.port p)
  cause : t.bootCause = cause
  params : t.params = ⟨0, 20, ⟨1, 1, 1, 1⟩, .opened, 10, 100, .fast, 6, 85, 105, .auto⟩
  regions : ∀ i, t.region i = none
  reports : t.reports = []

/-- What power-on leaves (R19, R134, R150, R159, R160, R175). -/
structure AtPowerOn (t : State) (x : Straps) : Prop where
  blocks : BlocksAtReset t .powerOn
  running : t.restart = .running
  straps : t.straps = x
  supervisor : Port.index t.supervisor = x.sup.toNat
  hold : t.retentionHold = false
  dram : t.seq.dram = .uninitialized
  banks : ∀ b : Fin 8, t.seq.banks[b.val] = .closed
  debt : t.seq.debt = 0
  overruns : t.seq.overruns = 0
  condition : t.seq.condition = .fresh
  lastServed : t.seq.lastServed = .d
  bus : t.seq.bus = .free
  tick : t.seq.tick = ⟨1950, t.now + 1950⟩
  timers : t.seq.pdTimer = none ∧ t.seq.srTimer = none ∧ t.seq.srRef = none ∧ t.seq.residency = none ∧ t.seq.kept = []
  entry : t.seq.retEntry = none
  thermal : t.thermal = ⟨none, .unknown, some ⟨1000000, t.now + 1000000⟩, true⟩
  reference : t.clock.ref = .locking
  lock : t.clock.lockTimer = some ⟨250000, t.now + 250000⟩

/-! ### Laws of the state -/

/-- R121: in SELF_REFRESH and in RETENTION every bank is CLOSED; and so in the states between a closing of the banks
and these. -/
def BanksLaw (s : State) : Prop :=
  match s.seq.dram with
  | .selfRefresh _ | .retention _ _ | .enteringSr _ .payDebt | .waking _ .selfRefresh | .waking _ (.retention _) =>
    s.seq.banks = allClosed
  | _ => True

/-- Whether a band permits self refresh. -/
def Band.cool : Band → Bool
  | .normal | .warm => true
  | .hot | .unknown => false

/-- R147: in SELF_REFRESH the band is NORMAL or WARM. While a warm restart is in course the DRAM is in RETENTION,
UNINITIALIZED, or on its way through a retention entry; and SELF_REFRESH is no part of a retention entry. -/
def BandLaw (s : State) : Prop :=
  (∀ r, s.seq.dram = .selfRefresh r → s.thermal.band.cool = true ∧ s.seq.retEntry = none) ∧
    (s.isRunning = false → s.seq.retEntry = none →
      s.seq.dram = .uninitialized ∨ ∃ r q, s.seq.dram = .retention r q)

/-- R42: no two defined regions share a page. -/
def RegionsLaw (s : State) : Prop :=
  ∀ i j a b, i ≠ j → s.region i = some a → s.region j = some b →
    ∀ page, ¬ (a.basePage ≤ page ∧ page < a.basePage + a.pageCount ∧ b.basePage ≤ page ∧ page < b.basePage + b.pageCount)

/-- Every defined region lies within the DRAM's 65,536 pages (section 3.1). -/
def RegionsFit (s : State) : Prop :=
  ∀ i a, s.region i = some a → 1 ≤ a.pageCount ∧ a.basePage + a.pageCount ≤ 65536

/-- What a port's counters and lists are bounded by: bad frames (R9), credit (R14), refusals that wait (R15), notices
and the lost count (R178, R179). -/
def PortBounds (x : PortState) : Prop :=
  x.link.badFrames < 8 ∧ x.link.credit ≤ 16 ∧ refusalsWaiting x.link ≤ 16 ∧ x.notices.queue.length ≤ 16 ∧
    x.notices.lost ≤ 255

/-- The bounds hold on every port. -/
def BoundsLaw (s : State) : Prop := ∀ p, PortBounds (s.port p)

/-- R127: the debt runs from 0 to 8; R128: the overrun count saturates. -/
def DebtLaw (s : State) : Prop := s.seq.debt ≤ 8 ∧ s.seq.overruns ≤ 65535

/-- Every parameter is in its range, and the thresholds keep their gap of 5 °C (section 2.9, R35). -/
def ParamsLaw (s : State) : Prop :=
  (s.params.keepaliveMs = 0 ∨ (10 ≤ s.params.keepaliveMs ∧ s.params.keepaliveMs ≤ 10000)) ∧
    (1 ≤ s.params.acceptWindowMs ∧ s.params.acceptWindowMs ≤ 1000) ∧
    (∀ p, s.params.priority.get p ≤ 3) ∧
    s.params.pdIdle100ns ≤ 255 ∧ s.params.srIdleMs ≤ 60000 ∧
    (1 ≤ s.params.refreshHighWater ∧ s.params.refreshHighWater ≤ 7) ∧
    (60 ≤ s.params.warmThreshold ∧ s.params.warmThreshold ≤ 120) ∧
    (s.params.warmThreshold + 5 ≤ s.params.hotThreshold ∧ s.params.hotThreshold ≤ 125)

/-- Where a receiver can stand (section 1.3): in HUNT with nothing received, or within a frame, with as many bytes of
it as the state says and the gap timer running (R4 to R7). -/
def Receiver.Sound (r : Receiver) : Prop :=
  match r.mode with
  | .hunt => r = Receiver.idle
  | .header => r.got.length < 4 ∧ r.gap.isSome = true
  | .payload =>
    4 ≤ r.got.length ∧ r.got.length < 4 + headerLength r.got ∧ headerLength r.got ≤ 320 ∧ r.gap.isSome = true
  | .check =>
    4 + headerLength r.got ≤ r.got.length ∧ r.got.length < 6 + headerLength r.got ∧ headerLength r.got ≤ 320 ∧
      r.gap.isSome = true

/-- Every receiver stands where section 1.3 lets it. -/
def ReceiversLaw (s : State) : Prop := ∀ p, (s.link p).rx.Sound

end Sys2Proof.Machine
end

