-- ==== Sys2Proof/Certificates/Slice0/Obligations.lean ====
section
/-! DEFINITION. The statements for the provers. A statement about a command says which next state it answers, for
every state and operands that meet its hypotheses, and what that state keeps. A clause about `now`, the moment of an
event, is the model's choice (log 3), and so is a strap level as a command's operand (log 14). -/

open Sys2Proof Sys2Proof.Machine

/-! ### Steps, resets, laws and frames -/

/-- A step takes the command at the front of the queue and runs it on the state with the queue's rest. -/
def Obligations.StepTakesTheFrontCommand : Prop :=
  ∀ (c : Instr) (s : State), step { s with pending := c :: s.pending } = exec c s

/-- With no command waiting one nanosecond passes (the model's choice, log 3), with which a transaction starts whose
start has been due since its admission (log 7); where none is eligible nothing else changes. No command adds to, takes
from or reorders the commands that wait behind it. -/
def Obligations.TheQueueChangesOnlyAtItsFront : Prop :=
  (∀ s : State, s.pending = [] → step s = .next { startDue s with now := s.now + 1 }) ∧
  (∀ s : State, s.pending = [] → anyEligible s = false → step s = .next { s with now := s.now + 1 }) ∧
  (∀ (c : Instr) (s t : State), exec c s = .next t → t.pending = s.pending)

/-- POWER_ON leaves every block at its power-on values, whatever stood before. -/
def Obligations.PowerOnResetsEveryBlock : Prop :=
  ∀ (x : Straps) (s : State), ∃ t, exec (.powerOn x) s = .next t ∧ AtPowerOn t x ∧ t.pending = s.pending

/-- The machine right after reset holds the power-on values, and meets the laws that steps keep. The straps it was
sampled with are the model's choice (log 14). -/
def Obligations.ResetMeetsEveryLaw : Prop :=
  AtPowerOn State.reset ⟨0, false, false⟩ ∧ State.reset.pending = [] ∧ State.reset.memory.cells = [] ∧
    State.reset.memory.wf = true ∧ BanksLaw State.reset ∧ BandLaw State.reset ∧ RegionsLaw State.reset ∧
    RegionsFit State.reset ∧ BoundsLaw State.reset ∧ DebtLaw State.reset ∧ ParamsLaw State.reset ∧
    ReceiversLaw State.reset

/-- Every step keeps the canonical form of the DRAM's contents: addresses strictly rising and inside the DRAM. -/
def Obligations.MemoryStaysCanonical : Prop :=
  ∀ s t : State, s.memory.wf = true → step s = .next t → t.memory.wf = true

/-- Every step keeps every bank CLOSED in SELF_REFRESH and RETENTION (R121). -/
def Obligations.BanksStayClosedAsleep : Prop :=
  ∀ s t : State, BanksLaw s → step s = .next t → BanksLaw t

/-- Every step keeps the DRAM out of SELF_REFRESH while the band is HOT or UNKNOWN (R147). -/
def Obligations.SelfRefreshOnlyWhenCool : Prop :=
  ∀ s t : State, BandLaw s → step s = .next t → BandLaw t

/-- Every step keeps the regions disjoint and inside the DRAM (R42, R40). -/
def Obligations.RegionsStayDisjoint : Prop :=
  ∀ s t : State, RegionsLaw s → RegionsFit s → step s = .next t → RegionsLaw t ∧ RegionsFit t

/-- Every step keeps every port's bad-frame count, credit, waiting refusals, notices and lost count within their limits,
and every receiver where section 1.3 lets it stand: in HUNT with nothing received, or within a frame of at most 320
payload bytes with the gap timer running. -/
def Obligations.PortsStayWithinTheirLimits : Prop :=
  (∀ s t : State, BoundsLaw s → step s = .next t → BoundsLaw t) ∧
  (∀ s t : State, ReceiversLaw s → step s = .next t → ReceiversLaw t)

/-- Every step keeps the refresh debt within 0 to 8 and the overrun count within 0 to 65,535 (R127, R128). Every step
keeps every parameter in its range, and the thresholds their gap (R35). -/
def Obligations.DebtAndParametersStayInRange : Prop :=
  (∀ s t : State, DebtLaw s → step s = .next t → DebtLaw t) ∧
  (∀ s t : State, ParamsLaw s → step s = .next t → ParamsLaw t)

/-- What the events of the Memory Sequencer, the Thermal Monitor and the Clock Supervisor leave unchanged, in every
state: parameters, regions, sessions, slots, receivers and the reset record; another unit's registers; and the DRAM's
contents, but for a burst, the training patterns, an init that begins, and where the condition is SUSPECT
(logs 9 to 11). -/
def Obligations.SequencerEventsKeepTheRest : Prop :=
  ∀ (c : Instr) (s t : State), sequencerEvent c = true → exec c s = .next t →
    t.pending = s.pending ∧ t.resetPin = s.resetPin ∧ t.straps = s.straps ∧ t.restart = s.restart ∧
      t.supervisor = s.supervisor ∧ t.bootCause = s.bootCause ∧ t.params = s.params ∧ t.regions = s.regions ∧
      (∀ p, t.session p = s.session p ∧ t.slot p = s.slot p ∧ (t.link p).rx = (s.link p).rx ∧
        (t.link p).badFrames = (s.link p).badFrames) ∧
      ((∀ r, c ≠ .thermalSample r) → t.thermal = s.thermal) ∧
      (c ≠ .lossWindowExpiry → c ≠ .refEdge → c ≠ .lockTimerExpiry → t.clock = s.clock) ∧
      (c ≠ .burstComplete → (∀ l0 l1, c ≠ .trainingComplete l0 l1) → t.seq.condition ≠ .suspect →
        (∀ x, t.seq.dram ≠ .initializing x) → t.memory = s.memory)

/-- What the 24 requests leave unchanged, in every state in which the frame is heard: the pins, the temperature and
the clock; parameters but for SET_PARAM; regions, sessions, FIFOs, slots, the DRAM's contents and the restart but for
the kinds named. -/
def Obligations.RequestsKeepTheRest : Prop :=
  ∀ (k : Kind) (p : Port) (tb : Byte) (pl : List Byte) (s t : State), Hears s p → pl.length ≤ 320 →
    exec (requestCommand k p tb pl) s = .next t →
    t.now = s.now ∧ t.pending = s.pending ∧ t.resetPin = s.resetPin ∧ t.straps = s.straps ∧
      t.supervisor = s.supervisor ∧ t.bootCause = s.bootCause ∧ t.thermal = s.thermal ∧ t.clock = s.clock ∧
      (k ≠ .setParam → t.params = s.params) ∧
      (k ∉ [Kind.hello, .evictPort] → t.restart = s.restart) ∧
      (k ∉ [Kind.hello, .evictPort, .reinit] → t.memory = s.memory) ∧
      (k ∉ [Kind.hello, .evictPort, .defineRegion, .alterRegion, .deleteRegion, .claim, .accept, .withdraw, .release,
          .revoke, .unfence] → t.regions = s.regions) ∧
      (k ∉ [Kind.hello, .evictPort, .claim, .accept, .revoke, .read, .write, .fill] → ∀ q, t.fifo q = s.fifo q) ∧
      (k ∉ [Kind.hello, .evictPort, .read, .write, .fill] → ∀ q, t.slot q = s.slot q) ∧
      (k ≠ .evictPort → ∀ q, q ≠ p → t.session q = s.session q) ∧
      (k ∉ [Kind.hello, .leave, .evictPort] → t.session p = (reportGood s p).session p)

/-! ### Links -/

/-- A frame whose received CRC differs from the computed one is bad with cause BAD_CRC, and one whose length field
exceeds 320 is bad with cause OVERLENGTH at its second length byte, whatever noise precedes its start marker. The bytes
after either end are heard from HUNT, where a start marker begins the next frame (R4). -/
def Obligations.ReceiverRejectsBadFrames : Prop :=
  (∀ (now : Nat) (noise tail : List Byte) (f : Frame) (lo hi : Byte), startMarker ∉ noise → f.payload.length ≤ 320 →
      u16 lo hi ≠ (crc16 f.body).toNat →
      Receiver.idle.hear now (noise ++ startMarker :: (f.body ++ lo :: hi :: tail))
        = ((Receiver.idle.hear now tail).1, .bad .badCrc :: (Receiver.idle.hear now tail).2)) ∧
    ∀ (now : Nat) (noise tail : List Byte) (k t l0 l1 : Byte), startMarker ∉ noise → 320 < u16 l0 l1 →
      Receiver.idle.hear now (noise ++ startMarker :: k :: t :: l0 :: l1 :: tail)
        = ((Receiver.idle.hear now tail).1, .bad .overlength :: (Receiver.idle.hear now tail).2)

/-- What the report of a good frame changes: the port's bad-frame count becomes 0, and the silence timer of an OPEN
session restarts with the present keepalive_ms, or stops if that is 0 (R10 step 1, R31). -/
def Obligations.GoodFramesRestartTheSilenceTimer : Prop :=
  ∀ (s : State) (p : Port), OffPorts s (reportGood s p) ∧ (∀ q, q ≠ p → (reportGood s p).port q = s.port q) ∧
    (reportGood s p).link p = { s.link p with badFrames := 0 } ∧
    (reportGood s p).notices p = s.notices p ∧ (reportGood s p).fifo p = s.fifo p ∧
    (reportGood s p).slot p = s.slot p ∧
    (reportGood s p).session p =
      if (s.session p).state = .opened then
        { s.session p with
          silence :=
            if s.params.keepaliveMs = 0 then none
            else some ⟨s.params.keepaliveMs * 1000000, s.now + s.params.keepaliveMs * 1000000⟩ }
      else s.session p

/-- BAD_FRAME and GAP_TIMEOUT, before the eighth bad frame in a row: the count rises by 1 and a NAK with the count and
the cause is handed over; the receiver is where the bytes leave it, in HUNT after a gap; nothing else changes but that
a GAP's time passes (the model's choice, logs 3 and 7). The eighth bad frame in a row (R9), by either: the count
returns to 0 after the NAK with count 8. Without a session nothing else changes; a session is lost. Where the loss
discards RESTART's unsent OK, that it reaches the Engine and the Directory before the restart begins is the model's
choice (log 39). -/
def Obligations.BadFramesAreCountedUpToEight : Prop :=
  (∀ (p : Port) (bytes : List Byte) (rx : Receiver) (cause : NakCause) (s : State), s.isRunning = true →
     (s.link p).rx.hear s.now bytes = (rx, [.bad cause]) →
     ((s.link p).badFrames < 7 →
       ∃ t, exec (.badFrame p bytes) s = .next t ∧
         Refused (s.setLink p { s.link p with rx := rx, badFrames := (s.link p).badFrames + 1 }) t p
           (nakFrame ((s.link p).badFrames + 1) cause)) ∧
     ((s.link p).badFrames = 7 → (s.session p).live = false →
       ∃ t, exec (.badFrame p bytes) s = .next t ∧
         Refused (s.setLink p { s.link p with rx := rx, badFrames := 0 }) t p (nakFrame 8 cause)) ∧
     ((s.link p).badFrames = 7 → (s.session p).live = true →
       ∃ t, exec (.badFrame p bytes) s = .next t ∧ SessionLost s t p ∧ LossLeaves s t p ∧
         (t.link p).badFrames = 0 ∧ (refusalsWaiting (s.link p) < 16 → nakFrame 8 cause ∈ outgoing t p))) ∧
  (∀ (p : Port) (bytes : List Byte) (rx : Receiver) (x : Timer) (s : State), s.isRunning = true →
     (s.link p).rx.hear s.now bytes = (rx, []) → rx.mode ≠ .hunt → rx.gap = some x →
     ((s.link p).badFrames < 7 →
       ∃ t, exec (.gapTimeout p bytes) s = .next t ∧
         Refused
           (((s.setLink p { s.link p with rx := rx }).reach x.deadline).setLink p
             { s.link p with rx := Receiver.idle, badFrames := (s.link p).badFrames + 1 })
           t p (nakFrame ((s.link p).badFrames + 1) .gap)) ∧
     ((s.link p).badFrames = 7 → (s.session p).live = false →
       ∃ t, exec (.gapTimeout p bytes) s = .next t ∧
         Refused
           (((s.setLink p { s.link p with rx := rx }).reach x.deadline).setLink p
             { s.link p with rx := Receiver.idle, badFrames := 0 })
           t p (nakFrame 8 .gap)) ∧
     ((s.link p).badFrames = 7 → (s.session p).live = true →
       ∃ t, exec (.gapTimeout p bytes) s = .next t ∧ SessionLost s t p ∧ LossLeaves s t p ∧
         (t.link p).badFrames = 0 ∧ (refusalsWaiting (s.link p) < 16 → nakFrame 8 .gap ∈ outgoing t p)))

/-- BAD_KIND_FRAME: a good frame of a kind no client may send is reported and refused BAD_KIND (R10 step 2). A request
on a tag that is in flight is refused TAG_BUSY, and the request in flight goes on undisturbed. -/
def Obligations.UnknownKindsAndBusyTagsAreRefused : Prop :=
  (∀ (p : Port) (kind tb : Byte) (pl : List Byte) (s : State), clientKind kind = false → Hears s p → pl.length ≤ 320 →
     ∃ t, exec (.badKindFrame p kind tb pl) s = .next t ∧
       Refused (reportGood s p) t p (refuseFrame (tagOf tb) .badKind)) ∧
  (∀ (k : Kind) (p : Port) (tb : Byte) (pl : List Byte) (n : Option SessNo) (s : State), Hears s p →
     pl.length ≤ 320 → (s.link p).entry (tagOf tb) = .taken n →
     ∃ t, exec (requestCommand k p tb pl) s = .next t ∧
       Refused (reportGood s p) t p (refuseFrame (tagOf tb) .tagBusy))

/-- CREDIT (R14, R15): a grant of 1 to 16 is added, up to 16; with the link free a waiting notice takes one credit and
goes at once. With no session, or with another payload, the frame is only reported. A notice is posted to a port with a
session (R176): a YIELD for a region with one in the queue changes nothing, a THERMAL takes the place of the one in the
queue, and every other notice is appended (R178), or dropped and counted while 16 wait (R179). -/
def Obligations.NoticesWaitForCredit : Prop :=
  (∀ (s : State) (p : Port) (n : Notice),
     (s.isRunning = true ∧ (s.session p).live = true →
       post s p n = arbitrate (s.setNotices p ((s.notices p).enqueue n)) p) ∧
     (s.isRunning = false ∨ (s.session p).live = false → post s p n = s)) ∧
  (∀ (q : Notices) (n : Notice),
     (∀ i x y, n = .yield i x → .yield i y ∈ q.queue → q.enqueue n = q) ∧
     (∀ b x, n = .thermal b x → (∃ y ∈ q.queue, y.isThermal = true) →
       q.enqueue n = { q with queue := q.queue.map fun y => if y.isThermal = true then n else y }) ∧
     ((∀ i x, n = .yield i x → ∀ y, .yield i y ∉ q.queue) → (n.isThermal = true → ∀ y ∈ q.queue, y.isThermal = false) →
       (q.queue.length < 16 → q.enqueue n = { q with queue := q.queue ++ [n] }) ∧
       (16 ≤ q.queue.length → q.enqueue n = { q with lost := min 255 (q.lost + 1) }))) ∧
  ∀ (p : Port) (tb : Byte) (pl : List Byte) (s : State), Hears s p → pl.length ≤ 320 →
    (((s.session p).live = false ∨ ∀ b, pl = [b] → b.toNat = 0 ∨ 16 < b.toNat) →
      exec (.credit p tb pl) s = .next (reportGood s p)) ∧
    ∀ b, pl = [b] → 1 ≤ b.toNat → b.toNat ≤ 16 → (s.session p).live = true →
      ((((s.link p).tx ≠ none ∨ ((s.link p).responses = [] ∧ (s.notices p).queue = [])) →
        exec (.credit p tb pl) s =
          .next ((reportGood s p).setLink p
            { (reportGood s p).link p with credit := min 16 ((s.link p).credit + b.toNat) })) ∧
      ∀ n rest, (s.link p).tx = none → (s.link p).responses = [] → (s.notices p).queue = n :: rest →
        ∃ t, exec (.credit p tb pl) s = .next t ∧ OffPorts (reportGood s p) t ∧
          (∀ q, q ≠ p → t.port q = s.port q) ∧ t.session p = (reportGood s p).session p ∧
          t.fifo p = s.fifo p ∧ t.slot p = s.slot p ∧
          t.notices p = ⟨rest, 0, (s.notices p).next + 1⟩ ∧
          t.link p = { (reportGood s p).link p with
            credit := min 16 ((s.link p).credit + b.toNat) - 1
            tx := some ⟨noticeFrame (s.notices p).next (s.notices p).lost n, false⟩ })

/-- RESEND (R13): the four answers by the state of the named tag, and no answer to another payload. -/
def Obligations.ResendFollowsTheReplyCache : Prop :=
  ∀ (p : Port) (tb : Byte) (pl : List Byte) (s : State), Hears s p → pl.length ≤ 320 →
    ((∀ b, pl = [b] → 8 ≤ b.toNat) → exec (.resend p tb pl) s = .next (reportGood s p)) ∧
    ∀ (b : Byte) (u : Tag), pl = [b] → b.toNat = u.val →
      (∀ n, (s.link p).entry u = .taken n →
        ∃ t, exec (.resend p tb pl) s = .next t ∧ Refused (reportGood s p) t p (refuseFrame u .inFlight)) ∧
      ((s.link p).entry u = .free → (s.link p).cached u = none →
        ∃ t, exec (.resend p tb pl) s = .next t ∧ Refused (reportGood s p) t p (refuseFrame u .noReply)) ∧
      ∀ f, (s.link p).entry u = .free → (s.link p).cached u = some f →
        (replyWaits (s.link p) f = true → exec (.resend p tb pl) s = .next (reportGood s p)) ∧
        (replyWaits (s.link p) f = false →
          ∃ t, exec (.resend p tb pl) s = .next t ∧ OffPorts (reportGood s p) t ∧
            (∀ q, q ≠ p → t.port q = s.port q) ∧ OffLink (reportGood s p) t p ∧
            { t.link p with responses := (s.link p).responses, tx := (s.link p).tx } = (reportGood s p).link p ∧
            outgoing t p = outgoing s p ++ [f])

/-- FRAME_TRANSMITTED (R15, R171): the oldest response is begun, else a notice if there is credit, else the link is
idle; the end of RESTART's OK begins the warm restart instead. From the beginning of a restart to its release no frame
is begun (R172). That the restart is begun and its reset not yet taken, even where no entry has started, is the model's
choice (log 1): the reset is a command of its own. -/
def Obligations.TheTransmitterTakesResponsesFirst : Prop :=
  (∀ (p : Port) (x : Transmission) (s : State), (s.link p).tx = some x → s.isRunning = false →
    exec (.frameTransmitted p) s = .next (s.setLink p { s.link p with tx := none })) ∧
  ∀ (p : Port) (x : Transmission) (s : State), (s.link p).tx = some x → s.isRunning = true →
    (x.restart = true →
      ∃ t, exec (.frameTransmitted p) s = .next t ∧ t.restart = .begun .command ∧ (t.link p).tx = none) ∧
    (x.restart = false →
      (∀ r rest, (s.link p).responses = r :: rest →
        exec (.frameTransmitted p) s =
          .next (s.setLink p { s.link p with responses := rest, tx := some ⟨r.frame, r.restart⟩ })) ∧
      ((s.link p).responses = [] → ((s.link p).credit = 0 ∨ (s.notices p).queue = []) →
        exec (.frameTransmitted p) s = .next (s.setLink p { s.link p with tx := none })) ∧
      ∀ n rest, (s.link p).responses = [] → 0 < (s.link p).credit → (s.notices p).queue = n :: rest →
        ∃ t, exec (.frameTransmitted p) s = .next t ∧ OffPorts s t ∧ (∀ q, q ≠ p → t.port q = s.port q) ∧
          t.session p = s.session p ∧ t.fifo p = s.fifo p ∧ t.slot p = s.slot p ∧
          t.notices p = ⟨rest, 0, (s.notices p).next + 1⟩ ∧
          t.link p = { s.link p with
            credit := (s.link p).credit - 1
            tx := some ⟨noticeFrame (s.notices p).next (s.notices p).lost n, false⟩ })

/-! ### Requests in general -/

/-- The session checks of R18 answer in their order, whatever the payload: NO_SESSION, CLOSING, NOT_SUPERVISOR. -/
def Obligations.SessionChecksAnswerFirst : Prop :=
  ∀ (k : Kind) (p : Port) (tb : Byte) (pl : List Byte) (s : State), Takes s p tb pl → k ≠ .hello →
    ((s.session p).state = .closed →
      AnswersStatus (requestCommand k p tb pl) s (replyFor s p k tb) .noSession) ∧
    (∀ u, (s.session p).state = .closing u →
      AnswersStatus (requestCommand k p tb pl) s (replyFor s p k tb) .closing) ∧
    ((s.session p).state = .opened → k.supervisorOnly = true → p ≠ s.supervisor →
      AnswersStatus (requestCommand k p tb pl) s (replyFor s p k tb) .notSupervisor)

/-- An admitted request with a flag bit set, with a payload of another length than its kind's or than its label's
length byte gives, with a bad label, or, for ALTER_REGION, with a presence bit above 3 or a label that is not present,
is answered BAD_FORMAT and changes nothing (R186). -/
def Obligations.MalformedRequestsAreAnsweredBadFormat : Prop :=
  ∀ (k : Kind) (p : Port) (tb : Byte) (pl : List Byte) (s : State), Takes s p tb pl →
    (k = .hello ∨ Admitted s p k) → (k.tx.isSome = true → (s.fifo p).length < 8) →
    (anyFlag tb = true ∨ (∃ n, fixedLength k = some n ∧ pl.length ≠ n) ∨ (k = .write ∧ pl.length < 8) ∨
      (∃ n, labelAt k = some n ∧ BadLabel pl n) ∨
      (k = .alterRegion ∧ (16 ≤ (pl.getD 1 0).toNat ∨ ((pl.getD 1 0).getLsbD 0 = false ∧ pl.getD 6 0 ≠ 0)))) →
    AnswersStatus (requestCommand k p tb pl) s (replyFor s p k tb) .badFormat

/-- A region id names a defined region exactly if it is at most 31 and its slot is defined (R39). A request that names
no defined region is answered NO_REGION and changes nothing (R39). -/
def Obligations.UndefinedRegionsAreAnsweredNoRegion : Prop :=
  (∀ (s : State) (b : Byte) (i : RegionId) (r : Region),
     lookup s b = some (i, r) ↔ b.toNat = i.val ∧ s.region i = some r) ∧
  (∀ (p : Port) (tb b : Byte) (s : State), lookup s b = none →
     (∀ k, k ∈ [Kind.deleteRegion, .queryRegion, .accept, .withdraw, .release, .revoke, .unfence] →
       Reaches s p k tb [b] →
       AnswersStatus (requestCommand k p tb [b]) s (replyFor s p k tb) .noRegion) ∧
     (∀ m, Reaches s p .claim tb [b, m] →
       AnswersStatus (.claim p tb [b, m]) s (replyFor s p .claim tb) .noRegion) ∧
     (∀ pl f, Reaches s p .alterRegion tb pl → readAlter pl = some f → f.id = b →
       AnswersStatus (.alterRegion p tb pl) s (replyFor s p .alterRegion tb) .noRegion) ∧
     ∀ k : TxKind, ∀ pl f, Reaches s p k.kind tb pl → (s.fifo p).length < 8 → readTx k pl = some f → f.id = b →
       lengthInRange k f.length = true →
       AnswersStatus (requestCommand k.kind p tb pl) s (replyFor s p k.kind tb) .noRegion)

/-! ### Sessions -/

/-- HELLO on a CLOSED port (R21, R22, R24): the session opens under the next number, with the label, the credit, an
empty cache and an empty notice queue, and the reply is handed over under it. A credit above 16 is answered BAD_PARAM.
HELLO on an OPEN or CLOSING port (R23): the session is lost with all it held, and the next one opens in the same event,
with every other tag free and no reply cached but HELLO's own, which carries R24's fields as they then stand. Where the
loss discards RESTART's unsent OK, that the session opens and its reply is handed over before the restart begins is the
model's choice (log 39). -/
def Obligations.HelloOpensASession : Prop :=
  (∀ (p : Port) (tb c len : Byte) (label : List Byte) (s : State), Takes s p tb (c :: len :: label) →
     anyFlag tb = false → labelWellFormed len label = true →
     (16 < c.toNat →
       AnswersStatus (.hello p tb (c :: len :: label)) s (replyFor s p .hello tb) .badParam) ∧
     (c.toNat ≤ 16 → (s.session p).state = .closed →
       Answers (.hello p tb (c :: len :: label)) s
         ((reportGood s p).setPort p
           { (reportGood s p).port p with
             session := ⟨.opened, (s.session p).number + 1, labelValue label,
               if s.params.keepaliveMs = 0 then none
               else some ⟨s.params.keepaliveMs * 1000000, s.now + s.params.keepaliveMs * 1000000⟩⟩
             link := { (reportGood s p).link p with cache := noReplies, credit := c.toNat }
             notices := ⟨[], 0, 0⟩ })
         ⟨p, tagOf tb, some ((s.session p).number + 1), .hello⟩
         [0x00, portCode p, (s.session p).number + 1, boolCode (decide (s.supervisor = p)), portCode s.supervisor, 1,
           s.bootCause.code, s.seq.condition.code, s.seq.dram.code, s.seq.dram.detail, s.clock.ref.code])) ∧
  (∀ (p : Port) (tb c len : Byte) (label : List Byte) (s : State), Takes s p tb (c :: len :: label) →
     anyFlag tb = false → labelWellFormed len label = true → c.toNat ≤ 16 → (s.session p).live = true →
     ∃ t dram detail, exec (.hello p tb (c :: len :: label)) s = .next t ∧ LossLeaves s t p ∧
       t.session p = ⟨.opened, (s.session p).number + 1, labelValue label,
         if s.params.keepaliveMs = 0 then none
         else some ⟨s.params.keepaliveMs * 1000000, s.now + s.params.keepaliveMs * 1000000⟩⟩ ∧
       t.notices p = ⟨[], 0, 0⟩ ∧ (t.link p).credit = c.toNat ∧ (∀ u, (t.link p).entry u = .free) ∧
       (∀ u, u ≠ tagOf tb → (t.link p).cached u = none) ∧
       Replied t ⟨p, tagOf tb, some ((s.session p).number + 1), .hello⟩
         [0x00, portCode p, (s.session p).number + 1, boolCode (decide (s.supervisor = p)), portCode s.supervisor, 1,
           s.bootCause.code, s.seq.condition.code, dram, detail, s.clock.ref.code] ∧
       (discardsRestart s p = false → dram = t.seq.dram.code ∧ detail = t.seq.dram.detail))

/-- LEAVE (R25): the port is CLOSING, its silence timer stops, and the LEAVE's tag stays in flight. Nothing else
changes. LEAVE_DRAIN_END (R26, R27): with nothing else outstanding the port holds, claims and is offered nothing any
more, the LEAVE is answered OK into the cleared cache, and the session is CLOSED with its number kept, no credit and no
notices. That a LEAVE with nothing outstanding leaves the port CLOSING, the drain's end being a command of its own, is
the model's choice (log 1); R26 ends the first phase at once. -/
def Obligations.LeaveDrainsAndClosesTheSession : Prop :=
  (∀ (p : Port) (tb : Byte) (s : State), Reaches s p .leave tb [] →
     exec (.leave p tb []) s =
       .next ((takeTag (reportGood s p) p (tagOf tb)).setSession p
         ⟨.closing (tagOf tb), (s.session p).number, (s.session p).label, none⟩)) ∧
  (∀ (p : Port) (u : Tag) (s : State), s.isRunning = true → (s.session p).state = .closing u → s.fifo p = [] →
     s.slot p = none → (∀ v, v ≠ u → (s.link p).entry v = .free) →
     (s.link p).entry u = .taken (some (s.session p).number) →
     ∃ t, exec (.leaveDrainEnd p) s = .next t ∧ OffRegions s t ∧
       t.session p = ⟨.closed, (s.session p).number, none, none⟩ ∧
       (t.link p).credit = 0 ∧ (t.notices p).queue = [] ∧ (t.notices p).lost = 0 ∧
       (∀ v, (t.link p).entry v = .free) ∧ (∀ v, v ≠ u → (t.link p).cached v = none) ∧
       Replied t ⟨p, u, some (s.session p).number, .leave⟩ [0x00] ∧
       ∀ i r, t.region i = some r → claimIn r p (some (s.session p).number) = false ∧
         offerIn r p (some (s.session p).number) = none ∧ ∀ h ∈ r.holders, h.isOf p (s.session p).number = false)

/-- PING and STATUS (R29, R30): OK, and OK with the snapshot; nothing else changes. -/
def Obligations.PingAndStatusAnswerOk : Prop :=
  ∀ (p : Port) (tb : Byte) (s : State),
    (Reaches s p .ping tb [] → AnswersStatus (.ping p tb []) s (replyFor s p .ping tb) .ok) ∧
    (Reaches s p .status tb [] →
      Answers (.status p tb []) s (reportGood s p) (replyFor s p .status tb)
        ([0x00, s.clock.ref.code, s.thermal.band.code] ++ readingField s.thermal.reading ++
          [s.seq.dram.code, s.seq.dram.detail, s.seq.condition.code, u8 s.seq.debt] ++ le16 s.seq.overruns ++
          [portCode s.supervisor] ++ [Port.a, .b, .c, .d].flatMap fun q =>
            [(s.session q).state.code, (s.session q).number, u8 (s.link q).credit, u8 (s.notices q).queue.length,
              u8 (s.notices q).lost] ++ labelField (s.session q).label))

/-- SILENCE_TIMEOUT (R31, R33): the session is lost. EVICT_PORT (R32): BAD_PARAM for an index above 3 or the
supervisor's own, OK and nothing for a CLOSED port, else OK and the session is lost. The loss takes the session's
claims, offers and SHARED leases, its transactions not started and its held request (R87 to R89, R114); an EXCLUSIVE
lease goes at once to its loss_action, FENCED or freed, or stays marked lost while a burst is issued (R90, R91). Where
the loss discards RESTART's unsent OK, that it reaches the Engine and the Directory before the restart begins is the
model's choice (log 39). -/
def Obligations.SilenceAndEvictionLoseTheSession : Prop :=
  (∀ (p : Port) (x : Timer) (s : State), s.isRunning = true → (s.session p).silence = some x →
     ∃ t, exec (.silenceTimeout p) s = .next t ∧ SessionLost s t p ∧ LossLeaves s t p ∧
       t.now = max s.now x.deadline) ∧
  (∀ (p : Port) (tb b : Byte) (s : State), Reaches s p .evictPort tb [b] →
     (4 ≤ b.toNat → AnswersStatus (.evictPort p tb [b]) s (replyFor s p .evictPort tb) .badParam) ∧
     ∀ v, b.toNat = Port.index v →
       (v = s.supervisor → AnswersStatus (.evictPort p tb [b]) s (replyFor s p .evictPort tb) .badParam) ∧
       (v ≠ s.supervisor → (s.session v).state = .closed →
         AnswersStatus (.evictPort p tb [b]) s (replyFor s p .evictPort tb) .ok) ∧
       (v ≠ s.supervisor → (s.session v).live = true →
         ∃ t, exec (.evictPort p tb [b]) s = .next t ∧ SessionLost s t v ∧ LossLeaves s t v ∧
           Replied t (replyFor s p .evictPort tb) [0x00]))

/-! ### Parameters -/

/-- SET_PARAM (R35): a value in range is stored and answered OK; an unknown id or a value out of range is answered
BAD_PARAM and stores nothing. A high water at or below the debt in POWER_DOWN also wakes the DRAM (R37). -/
def Obligations.SetParamStoresValuesInRange : Prop :=
  ∀ (p : Port) (tb id lo hi : Byte) (s : State), Reaches s p .setParam tb [id, lo, hi] →
    ((paramOf id = none ∨ ∃ x, paramOf id = some x ∧ s.params.admits x (u16 lo hi) = false) →
      AnswersStatus (.setParam p tb [id, lo, hi]) s (replyFor s p .setParam tb) .badParam) ∧
    ∀ x, paramOf id = some x → s.params.admits x (u16 lo hi) = true →
      ((x ≠ .refreshHighWater ∨ s.seq.debt < u16 lo hi ∨ ∀ k, s.seq.dram ≠ .powerDown k) →
        Answers (.setParam p tb [id, lo, hi]) s
          { reportGood s p with params := s.params.store x (u16 lo hi) } (replyFor s p .setParam tb) [0x00]) ∧
      ∀ k, x = .refreshHighWater → u16 lo hi ≤ s.seq.debt → s.seq.dram = .powerDown k →
        ∃ t, exec (.setParam p tb [id, lo, hi]) s = .next t ∧ Replied t (replyFor s p .setParam tb) [0x00] ∧
          t.params = s.params.store x (u16 lo hi) ∧
          (s.seq.residency = none → t.seq.dram = .waking .ready (.powerDown k)) ∧
          (s.seq.residency ≠ none → t.seq.dram = .powerDown k ∧ PdCause.highWater ∈ t.seq.kept)

/-- GET_PARAM (R36): the id and the stored value, for every session; BAD_PARAM for an id that names no parameter. -/
def Obligations.GetParamReturnsTheStoredValue : Prop :=
  ∀ (p : Port) (tb id : Byte) (s : State), Reaches s p .getParam tb [id] →
    (paramOf id = none → AnswersStatus (.getParam p tb [id]) s (replyFor s p .getParam tb) .badParam) ∧
    ∀ x, paramOf id = some x →
      Answers (.getParam p tb [id]) s (reportGood s p) (replyFor s p .getParam tb)
        ([0x00, id] ++ le16 (s.params.value x))

/-! ### The region table -/

/-- DEFINE_REGION (R40, R41): the checks in their order; a definition that passes makes the slot FREE at epoch 0. -/
def Obligations.DefineRegionMakesAFreeRegion : Prop :=
  ∀ (p : Port) (tb : Byte) (pl : List Byte) (f : DefineFields) (s : State), Reaches s p .defineRegion tb pl →
    readDefine pl = some f →
    (32 ≤ f.id.toNat → AnswersStatus (.defineRegion p tb pl) s (replyFor s p .defineRegion tb) .badParam) ∧
    ∀ i : RegionId, f.id.toNat = i.val →
      (∀ r, s.region i = some r →
        AnswersStatus (.defineRegion p tb pl) s (replyFor s p .defineRegion tb) .regionExists) ∧
      (s.region i = none →
        ((f.pageCount = 0 ∨ 65536 < f.basePage + f.pageCount ∨ 60000 < f.recallMs ∨ boolOf f.shared = none ∨
            lossActionOf f.lossAction = none) →
          AnswersStatus (.defineRegion p tb pl) s (replyFor s p .defineRegion tb) .badParam) ∧
        ∀ shared loss, 1 ≤ f.pageCount → f.basePage + f.pageCount ≤ 65536 → f.recallMs ≤ 60000 →
          boolOf f.shared = some shared → lossActionOf f.lossAction = some loss →
          ((∃ j r page, s.region j = some r ∧ f.basePage ≤ page ∧ page < f.basePage + f.pageCount ∧
              r.basePage ≤ page ∧ page < r.basePage + r.pageCount) →
            AnswersStatus (.defineRegion p tb pl) s (replyFor s p .defineRegion tb) .overlap) ∧
          ((∀ j r page, s.region j = some r → f.basePage ≤ page → page < f.basePage + f.pageCount →
              ¬ (r.basePage ≤ page ∧ page < r.basePage + r.pageCount)) →
            (∀ j r, s.region j = some r → 1 ≤ r.pageCount) →
            Answers (.defineRegion p tb pl) s
              ((reportGood s p).setRegion i
                (some ⟨f.basePage, f.pageCount, labelValue f.label, shared, f.recallMs, loss, .free, 0, [], none, none,
                  []⟩))
              (replyFor s p .defineRegion tb) [0x00, f.id]))

/-- ALTER_REGION (R43): the checks in their order; a request that passes stores every present field and nothing else. -/
def Obligations.AlterRegionStoresPresentFields : Prop :=
  ∀ (p : Port) (tb : Byte) (pl : List Byte) (f : AlterFields) (i : RegionId) (r : Region) (s : State),
    Reaches s p .alterRegion tb pl → readAlter pl = some f → lookup s f.id = some (i, r) →
    (((∃ n, f.recallMs = some n ∧ 60000 < n) ∨ (∃ b, f.shared = some b ∧ boolOf b = none) ∨
        (∃ b, f.lossAction = some b ∧ lossActionOf b = none)) →
      AnswersStatus (.alterRegion p tb pl) s (replyFor s p .alterRegion tb) .badParam) ∧
    ((∀ n, f.recallMs = some n → n ≤ 60000) → (∀ b, f.shared = some b → boolOf b ≠ none) →
      (∀ b, f.lossAction = some b → lossActionOf b ≠ none) →
      (f.shared = some 0 → sharedPresent r = true →
        AnswersStatus (.alterRegion p tb pl) s (replyFor s p .alterRegion tb) .regionBusy) ∧
      ((f.shared = some 0 → sharedPresent r = false) →
        Answers (.alterRegion p tb pl) s
          ((reportGood s p).setRegion i (some { r with
            label := (f.label.map labelValue).getD r.label
            recallMs := f.recallMs.getD r.recallMs
            lossAction := (f.lossAction.bind lossActionOf).getD r.lossAction
            sharedAllowed := (f.shared.bind boolOf).getD r.sharedAllowed }))
          (replyFor s p .alterRegion tb) [0x00]))

/-- DELETE_REGION (R45): FREE, and FENCED with an empty queue, are deleted; every other region is REGION_BUSY.
QUERY_REGION (R47, R48): the whole record as it stands; nothing changes. -/
def Obligations.RegionsAreDeletedAndQueried : Prop :=
  (∀ (p : Port) (tb b : Byte) (i : RegionId) (r : Region) (s : State), Reaches s p .deleteRegion tb [b] →
     lookup s b = some (i, r) →
     ((r.state = .free ∨ (r.state = .fenced ∧ r.queue = [])) →
       Answers (.deleteRegion p tb [b]) s ((reportGood s p).setRegion i none) (replyFor s p .deleteRegion tb) [0x00]) ∧
     (¬ (r.state = .free ∨ (r.state = .fenced ∧ r.queue = [])) →
       AnswersStatus (.deleteRegion p tb [b]) s (replyFor s p .deleteRegion tb) .regionBusy)) ∧
  (∀ (p : Port) (tb b : Byte) (i : RegionId) (r : Region) (s : State), Reaches s p .queryRegion tb [b] →
     lookup s b = some (i, r) →
     Answers (.queryRegion p tb [b]) s (reportGood s p) (replyFor s p .queryRegion tb)
       ([0x00, b] ++ le16 r.basePage ++ le32 r.pageCount ++ [boolCode r.sharedAllowed] ++ le16 r.recallMs ++
         [r.lossAction.code, r.state.code] ++ le16 r.epoch.toNat ++ labelField r.label ++
         timeField (r.recallDeadline.map (msRemaining s.now)) ++ offerField s r.offer ++ [u8 r.holders.length] ++
         (r.holders.flatMap fun h =>
           [portCode h.port, h.session, h.mode.code,
             u8 ((if h.pendingRelease ≠ [] then 1 else 0) + (if h.revokePending then 2 else 0) +
               (if !h.lost && decide (s.presentSession h.port = some h.session) then 4 else 0))]) ++
         [u8 r.queue.length] ++ r.queue.flatMap fun c => [portCode c.port, c.session, c.mode.code, u8 c.priority]))

/-! ### Claims and leases -/

/-- A claim is inserted after every entry of equal or greater priority and before the first of lower, and its position
counts the head as 1 (R57). CLAIM queued (R57, R60, R93): on a FENCED region it only waits; on an EXCLUSIVE region
with an empty queue it is first in the queue, the region enters RECALLING, and the recall deadline is set if recall_ms
is not 0. -/
def Obligations.ClaimsThatConflictAreQueued : Prop :=
  (∀ (c : Claim) (q : List Claim), ∃ before after, q = before ++ after ∧ insertClaim c q = before ++ c :: after ∧
     claimPosition c q = before.length + 1 ∧ (∀ x ∈ before, c.priority ≤ x.priority) ∧
     (∀ x, after.head? = some x → x.priority < c.priority)) ∧
  (∀ (p : Port) (tb b mc : Byte) (m : Mode) (i : RegionId) (r : Region) (s : State), Reaches s p .claim tb [b, mc] →
     lookup s b = some (i, r) → modeOf mc = some m → (m = .shared → r.sharedAllowed = true) →
     alreadyThere r p (some (s.session p).number) = false →
     (r.state = .fenced →
       Answers (.claim p tb [b, mc]) s
         ((reportGood s p).setRegion i (some { r with
           queue := insertClaim ⟨p, (s.session p).number, m, s.params.priority.get p⟩ r.queue }))
         (replyFor s p .claim tb)
         [0x02, u8 (claimPosition ⟨p, (s.session p).number, m, s.params.priority.get p⟩ r.queue)]) ∧
     ∀ h, r.state = .exclusive → r.holders = [h] → h.mode = .exclusive → r.offer = none → r.queue = [] →
       ∃ t, exec (.claim p tb [b, mc]) s = .next t ∧ OffRegions s t ∧ Replied t (replyFor s p .claim tb) [0x02, 1] ∧
         (∀ j, j ≠ i → t.region j = s.region j) ∧
         t.region i = some { r with
           queue := [⟨p, (s.session p).number, m, s.params.priority.get p⟩], state := .recalling
           recallDeadline := if r.recallMs = 0 then none else some (s.now + r.recallMs * 1000000) })

/-- CLAIM refused (R55): SHARED where it is not allowed, or by a port that is already there. CLAIM granted at once
(R50, R56): on a FREE region with a new epoch, whatever the mode; on a SHARED region with an empty queue, for SHARED,
at the present epoch. -/
def Obligations.ClaimsAreCheckedAndGrantedAtOnce : Prop :=
  (∀ (p : Port) (tb b mc : Byte) (m : Mode) (i : RegionId) (r : Region) (s : State), Reaches s p .claim tb [b, mc] →
     lookup s b = some (i, r) → modeOf mc = some m →
     (m = .shared → r.sharedAllowed = false →
       AnswersStatus (.claim p tb [b, mc]) s (replyFor s p .claim tb) .badParam) ∧
     ((m = .shared → r.sharedAllowed = true) → alreadyThere r p (some (s.session p).number) = true →
       AnswersStatus (.claim p tb [b, mc]) s (replyFor s p .claim tb) .already)) ∧
  (∀ (p : Port) (tb b mc : Byte) (m : Mode) (i : RegionId) (r : Region) (s : State), Reaches s p .claim tb [b, mc] →
     lookup s b = some (i, r) → modeOf mc = some m → (m = .shared → r.sharedAllowed = true) → r.queue = [] →
     (r.state = .free → r.holders = [] → r.offer = none →
       Answers (.claim p tb [b, mc]) s
         ((reportGood s p).setRegion i (some { r with
           epoch := r.epoch + 1, holders := [⟨p, (s.session p).number, m, [], false, false⟩]
           state := heldState m }))
         (replyFor s p .claim tb) (0x01 :: le16 (r.epoch + 1).toNat)) ∧
     (r.state = .shared → m = .shared → alreadyThere r p (some (s.session p).number) = false →
       (∀ h ∈ r.holders, h.revokePending = false) →
       Answers (.claim p tb [b, mc]) s
         ((reportGood s p).setRegion i (some { r with
           holders := insertHolder ⟨p, (s.session p).number, .shared, [], false, false⟩ r.holders }))
         (replyFor s p .claim tb) (0x01 :: le16 r.epoch.toNat)))

/-- ACCEPT (R64): the offer's target becomes a holder, the first one under a new epoch; without the offer the answer is
NO_OFFER. -/
def Obligations.AcceptTurnsTheOfferIntoALease : Prop :=
  ∀ (p : Port) (tb b : Byte) (i : RegionId) (r : Region) (s : State), Reaches s p .accept tb [b] →
    lookup s b = some (i, r) →
    (offerIn r p (some (s.session p).number) = none →
      AnswersStatus (.accept p tb [b]) s (replyFor s p .accept tb) .noOffer) ∧
    ∀ o, offerIn r p (some (s.session p).number) = some o → r.queue = [] →
      (r.state = .offered → r.holders = [] →
        Answers (.accept p tb [b]) s
          ((reportGood s p).setRegion i (some { r with
            offer := none, epoch := r.epoch + 1, holders := [⟨p, (s.session p).number, o.mode, [], false, false⟩]
            state := heldState o.mode }))
          (replyFor s p .accept tb) (0x00 :: le16 (r.epoch + 1).toNat)) ∧
      (r.state = .shared → o.mode = .shared → r.holders ≠ [] → (∀ h ∈ r.holders, h.revokePending = false) →
        Answers (.accept p tb [b]) s
          ((reportGood s p).setRegion i (some { r with
            offer := none
            holders := insertHolder ⟨p, (s.session p).number, .shared, [], false, false⟩ r.holders }))
          (replyFor s p .accept tb) (0x00 :: le16 r.epoch.toNat))

/-- WITHDRAW (R68, R69): a queued claim or the offer is removed; without either the answer is NOT_CLAIMED. -/
def Obligations.WithdrawRemovesClaimOrOffer : Prop :=
  ∀ (p : Port) (tb b : Byte) (i : RegionId) (r : Region) (s : State), Reaches s p .withdraw tb [b] →
    lookup s b = some (i, r) →
    (claimIn r p (some (s.session p).number) = false → offerIn r p (some (s.session p).number) = none →
      AnswersStatus (.withdraw p tb [b]) s (replyFor s p .withdraw tb) .notClaimed) ∧
    (claimIn r p (some (s.session p).number) = true →
      (r.state = .fenced ∨ (r.state = .offered ∧ r.holders = [] ∧ r.offer ≠ none)) →
      Answers (.withdraw p tb [b]) s
        ((reportGood s p).setRegion i (some { r with
          queue := r.queue.filter fun c => !(decide (c.port = p) && decide (c.session = (s.session p).number)) }))
        (replyFor s p .withdraw tb) [0x00]) ∧
    (offerIn r p (some (s.session p).number) ≠ none → r.state = .offered → r.holders = [] → r.queue = [] →
      Answers (.withdraw p tb [b]) s ((reportGood s p).setRegion i (some { r with offer := none, state := .free }))
        (replyFor s p .withdraw tb) [0x00])

/-- RELEASE (R70 to R72, R82): NOT_HELD by a port that holds nothing; of a revoke-pending holder it waits with its tag in
flight, whether or not one waits already (R82 over R70's RELEASING: log 32); else RELEASING while one waits; with
transactions on the region it waits; else the lease is removed, and a region left with nobody is FREE. -/
def Obligations.ReleaseGivesTheLeaseBack : Prop :=
  ∀ (p : Port) (tb b : Byte) (i : RegionId) (r : Region) (s : State), Reaches s p .release tb [b] →
    lookup s b = some (i, r) →
    (holderIn r p (some (s.session p).number) = none →
      AnswersStatus (.release p tb [b]) s (replyFor s p .release tb) .notHeld) ∧
    ∀ h, holderIn r p (some (s.session p).number) = some h →
      (h.pendingRelease ≠ [] → h.revokePending = false →
        AnswersStatus (.release p tb [b]) s (replyFor s p .release tb) .releasing) ∧
      ((h.revokePending = true ∨ (h.pendingRelease = [] ∧ countOn s p i ≠ 0)) →
        exec (.release p tb [b]) s =
          .next ((takeTag (reportGood s p) p (tagOf tb)).setRegion i (some { r with
            holders := r.holders.map fun x =>
              if h.same x then { x with pendingRelease := x.pendingRelease ++ [tagOf tb] } else x }))) ∧
      (h.pendingRelease = [] → h.revokePending = false → countOn s p i = 0 → r.holders = [h] → r.offer = none →
        r.queue = [] → r.state ≠ .fenced →
        Answers (.release p tb [b]) s
          ((reportGood s p).setRegion i (some { r with holders := [], recallDeadline := none, state := .free }))
          (replyFor s p .release tb) [0x00])

/-- REVOKE (R80, R81, R83): NOT_HELD where nobody holds; else OK, and a holder with no transaction on the region is
removed in the same event, which leaves a region with nobody waiting FREE at the same epoch. -/
def Obligations.RevokeRemovesTheHolder : Prop :=
  ∀ (p : Port) (tb b : Byte) (i : RegionId) (r : Region) (s : State), Reaches s p .revoke tb [b] →
    lookup s b = some (i, r) →
    ((r.state = .free ∨ r.state = .offered ∨ r.state = .fenced) →
      AnswersStatus (.revoke p tb [b]) s (replyFor s p .revoke tb) .notHeld) ∧
    ∀ h, (r.state = .exclusive ∨ r.state = .shared ∨ r.state = .recalling) → r.holders = [h] → r.offer = none →
      r.queue = [] → h.revokePending = false → h.lost = false → countOn s h.port i = 0 →
      ∃ t, exec (.revoke p tb [b]) s = .next t ∧ OffWork s t ∧ Replied t (replyFor s p .revoke tb) [0x00] ∧
        (∀ j, j ≠ i → t.region j = s.region j) ∧
        t.region i = some { r with holders := [], recallDeadline := none, state := .free }

/-- UNFENCE (R94): REGION_BUSY unless FENCED; else the epoch rises, and the region is FREE, or offered to its head. -/
def Obligations.UnfenceRaisesTheEpoch : Prop :=
  ∀ (p : Port) (tb b : Byte) (i : RegionId) (r : Region) (s : State), Reaches s p .unfence tb [b] →
    lookup s b = some (i, r) →
    (r.state ≠ .fenced → AnswersStatus (.unfence p tb [b]) s (replyFor s p .unfence tb) .regionBusy) ∧
    (r.state = .fenced → r.holders = [] → r.offer = none →
      (r.queue = [] →
        Answers (.unfence p tb [b]) s
          ((reportGood s p).setRegion i (some { r with epoch := r.epoch + 1, state := .free }))
          (replyFor s p .unfence tb) (0x00 :: le16 (r.epoch + 1).toNat)) ∧
      ∀ c rest, r.queue = c :: rest →
        ∃ t, exec (.unfence p tb [b]) s = .next t ∧ OffRegions s t ∧
          Replied t (replyFor s p .unfence tb) (0x00 :: le16 (r.epoch + 1).toNat) ∧
          (∀ j, j ≠ i → t.region j = s.region j) ∧
          t.region i = some { r with
            epoch := r.epoch + 1, queue := rest, state := .offered, recallDeadline := none
            offer := some ⟨c.port, c.session, c.mode, s.now + s.params.acceptWindowMs * 1000000⟩ })

/-- OFFER_DEADLINE_EXPIRY (R66): the offer and its claim are gone; an OFFERED region goes to its next head, or is
FREE, and a SHARED region with an empty queue stays as it is; what the passing of time until then starts is the model's
choice (logs 3 and 7). RECALL_DEADLINE_EXPIRY (R79, R81, R83, R72): a holder
with no transaction on the region is removed in the event, and the head of the queue is offered. -/
def Obligations.DeadlinesEndOffersAndLeases : Prop :=
  (∀ (i : RegionId) (r : Region) (o : Offer) (s : State), s.isRunning = true → s.region i = some r →
     r.offer = some o →
     (r.state = .offered → r.holders = [] →
       ∃ t, exec (.offerDeadlineExpiry i) s = .next t ∧
         OffRegions (s.reach o.deadline) t ∧ (∀ j, j ≠ i → t.region j = s.region j) ∧
         (r.queue = [] → t.region i = some { r with offer := none, state := .free }) ∧
         ∀ c rest, r.queue = c :: rest →
           t.region i = some { r with
             queue := rest, recallDeadline := none
             offer := some ⟨c.port, c.session, c.mode, max s.now o.deadline + s.params.acceptWindowMs * 1000000⟩ }) ∧
     (r.state = .shared → r.holders ≠ [] → r.queue = [] →
       ∃ t, exec (.offerDeadlineExpiry i) s = .next t ∧
         OffRegions (s.reach o.deadline) t ∧ (∀ j, j ≠ i → t.region j = s.region j) ∧
         t.region i = some { r with offer := none })) ∧
  (∀ (i : RegionId) (r : Region) (d : Nat) (h : Holder) (c : Claim) (rest : List Claim) (s : State),
     s.isRunning = true → s.region i = some r → r.state = .recalling → r.recallDeadline = some d → r.holders = [h] →
     h.revokePending = false → h.lost = false → countOn s h.port i = 0 → r.offer = none → r.queue = c :: rest →
     ∃ t, exec (.recallDeadlineExpiry i) s = .next t ∧ OffWork { s with now := max s.now d } t ∧
       (∀ j, j ≠ i → t.region j = s.region j) ∧
       t.region i = some { r with
         holders := [], recallDeadline := none, state := .offered, queue := rest
         offer := some ⟨c.port, c.session, c.mode, max s.now d + s.params.acceptWindowMs * 1000000⟩ })

/-- TRANSACTION_END_REPORT (R74, R71, R83): a report with a number above 0, or on an undefined region, changes nothing;
with the number 0 a lease pending release is removed and the RELEASE answered OK, and a revoke-pending one is removed
and every RELEASE that waits is answered REVOKED (R82). -/
def Obligations.EndReportsFinishReleases : Prop :=
  ∀ (e : EndReport) (rest : List EndReport) (s : State), s.isRunning = true → s.reports = e :: rest →
    ((e.count ≠ 0 ∨ s.region e.region = none) →
      exec .transactionEndReport s = .next { s with reports := rest }) ∧
    (∀ r h, s.region e.region = some r → e.count = 0 → countOn s e.port e.region = 0 → r.holders = [h] →
      h.port = e.port → s.presentSession e.port = some h.session → h.lost = false → h.revokePending = true →
      r.offer = none → r.queue = [] → r.state ≠ .fenced →
      ∃ t, exec .transactionEndReport s = .next t ∧ OffRegions { s with reports := rest } t ∧
        (∀ j, j ≠ e.region → t.region j = s.region j) ∧
        t.region e.region = some { r with holders := [], recallDeadline := none, state := .free } ∧
        ∀ u ∈ h.pendingRelease, (s.link e.port).entry u = .taken (some h.session) →
          Replied t ⟨e.port, u, some h.session, .release⟩ [0x33]) ∧
    ∀ r h u, s.region e.region = some r → e.count = 0 → countOn s e.port e.region = 0 → r.holders = [h] →
      h.port = e.port → s.presentSession e.port = some h.session → h.lost = false → h.revokePending = false →
      h.pendingRelease = [u] → r.offer = none → r.queue = [] → r.state ≠ .fenced →
      (s.link e.port).entry u = .taken (some h.session) →
      ∃ t, exec .transactionEndReport s = .next t ∧
        Answered
          ({ s with reports := rest }.setRegion e.region
            (some { r with holders := [], recallDeadline := none, state := .free }))
          t ⟨e.port, u, some h.session, .release⟩ false [0x00]

/-! ### Memory transactions -/

/-- The checks of R100 to R102 on a transaction request, in their order; the first failure is the answer, and nothing
else changes. -/
def Obligations.TransactionsAreCheckedInOrder : Prop :=
  ∀ (k : TxKind) (p : Port) (tb : Byte) (pl : List Byte) (f : TxFields) (s : State),
    Reaches s p k.kind tb pl → (s.fifo p).length < 8 → readTx k pl = some f →
    (lengthInRange k f.length = false →
      AnswersStatus (requestCommand k.kind p tb pl) s (replyFor s p k.kind tb) .badParam) ∧
    (lengthInRange k f.length = true →
      (lookup s f.id = none →
        AnswersStatus (requestCommand k.kind p tb pl) s (replyFor s p k.kind tb) .noRegion) ∧
      ∀ i r, lookup s f.id = some (i, r) →
        (holderIn r p (some (s.session p).number) = none →
          AnswersStatus (requestCommand k.kind p tb pl) s (replyFor s p k.kind tb) .notHeld) ∧
        ∀ h, holderIn r p (some (s.session p).number) = some h →
          (h.revokePending = true →
            AnswersStatus (requestCommand k.kind p tb pl) s (replyFor s p k.kind tb) .revoked) ∧
          (h.revokePending = false →
            (f.epoch ≠ r.epoch →
              AnswersStatus (requestCommand k.kind p tb pl) s (replyFor s p k.kind tb) .stale) ∧
            (f.epoch = r.epoch →
              (k ≠ .read → h.mode = .shared →
                AnswersStatus (requestCommand k.kind p tb pl) s (replyFor s p k.kind tb) .notExclusive) ∧
              ((k = .read ∨ h.mode = .exclusive) →
                (h.pendingRelease ≠ [] →
                  AnswersStatus (requestCommand k.kind p tb pl) s (replyFor s p k.kind tb) .releasing) ∧
                (h.pendingRelease = [] →
                  (r.pageCount * 4096 < f.offset + f.length →
                    AnswersStatus (requestCommand k.kind p tb pl) s (replyFor s p k.kind tb) .outOfRange) ∧
                  (f.offset + f.length ≤ r.pageCount * 4096 →
                    (s.retentionHold = true →
                      AnswersStatus (requestCommand k.kind p tb pl) s (replyFor s p k.kind tb) .retaining) ∧
                    (s.retentionHold = false → s.seq.dram = .failed →
                      AnswersStatus (requestCommand k.kind p tb pl) s (replyFor s p k.kind tb) .memoryFailed) ∧
                    (s.retentionHold = false → (s.seq.dram = .uninitialized ∨ ∃ x, s.seq.dram = .initializing x) →
                      AnswersStatus (requestCommand k.kind p tb pl) s (replyFor s p k.kind tb) .notReady)))))))

/-- A transaction that passes its checks enters the tail of its port's FIFO with its tag in flight (R103). While the
DRAM is READY and busy nothing else changes. With the DRAM READY and idle it does not start in this event (R117): idle
ends with both its timers (R135, R138). In POWER_DOWN after the residency and in SELF_REFRESH the DRAM also begins to
wake if the FIFO was empty (R140, R147). -/
def Obligations.AdmittedTransactionsEnterTheFifo : Prop :=
  ∀ (k : TxKind) (p : Port) (tb : Byte) (pl : List Byte) (f : TxFields) (i : RegionId) (r : Region) (h : Holder)
    (s : State), Reaches s p k.kind tb pl → (s.fifo p).length < 8 → readTx k pl = some f →
    lengthInRange k f.length = true → lookup s f.id = some (i, r) → holderIn r p (some (s.session p).number) = some h →
    h.revokePending = false → f.epoch = r.epoch → (k = .read ∨ h.mode = .exclusive) → h.pendingRelease = [] →
    f.offset + f.length ≤ r.pageCount * 4096 → s.retentionHold = false →
    (s.seq.dram = .ready → s.seq.bus ≠ .free → s.seq.idle = false →
      exec (requestCommand k.kind p tb pl) s =
        .next ((takeTag (reportGood s p) p (tagOf tb)).setFifo p (s.fifo p ++
          [⟨tagOf tb, (s.session p).number, k, i, r.epoch, r.basePage * 4096 + f.offset, f.length, f.data, f.pattern,
            0, false, [], none⟩]))) ∧
    (s.seq.dram = .ready → s.seq.bus = .free → s.seq.debt = 0 → s.seq.idle = true → (∀ q, s.fifo q = []) →
      exec (requestCommand k.kind p tb pl) s =
        .next (((takeTag (reportGood s p) p (tagOf tb)).setFifo p
          [⟨tagOf tb, (s.session p).number, k, i, r.epoch, r.basePage * 4096 + f.offset, f.length, f.data, f.pattern,
            0, false, [], none⟩]).setSeq { s.seq with idle := false, pdTimer := none, srTimer := none })) ∧
    (s.fifo p = [] →
      (∀ x, s.seq.dram = .powerDown x → s.seq.residency = none →
        ∃ t, exec (requestCommand k.kind p tb pl) s = .next t ∧ t.fifo p =
            [⟨tagOf tb, (s.session p).number, k, i, r.epoch, r.basePage * 4096 + f.offset, f.length, f.data, f.pattern,
              0, false, [], none⟩] ∧
          t.seq.dram = .waking .ready (.powerDown x)) ∧
      ∀ x, s.seq.dram = .selfRefresh x →
        ∃ t, exec (requestCommand k.kind p tb pl) s = .next t ∧ t.fifo p =
            [⟨tagOf tb, (s.session p).number, k, i, r.epoch, r.basePage * 4096 + f.offset, f.length, f.data, f.pattern,
              0, false, [], none⟩] ∧
          t.seq.dram = .waking .ready .selfRefresh)

/-- A request that finds its port's FIFO full waits unchecked in the admission slot, with its tag in flight (R104).
ADMISSION_SLOT_RELEASE (R104): with room in the FIFO, whatever made it (the model's choice, log 33), the held request
leaves the slot and is checked then: one that names no region is answered NO_REGION, one that passes enters the
FIFO. -/
def Obligations.TheAdmissionSlotHoldsOneRequest : Prop :=
  (∀ (k : TxKind) (p : Port) (tb : Byte) (pl : List Byte) (s : State), Takes s p tb pl → Admitted s p k.kind →
     (s.fifo p).length = 8 → s.slot p = none →
     exec (requestCommand k.kind p tb pl) s =
       .next ((takeTag (reportGood s p) p (tagOf tb)).setSlot p (some ⟨replyFor s p k.kind tb, tb, pl⟩))) ∧
  (∀ (k : TxKind) (p : Port) (q : Request) (f : TxFields) (s : State), s.slot p = some q → (s.fifo p).length < 8 →
     q.replyTo.port = p → q.replyTo.kind = k.kind → anyFlag q.tagByte = false → readTx k q.payload = some f →
     lengthInRange k f.length = true → acceptsReply s q.replyTo = true →
     (lookup s f.id = none →
       ∃ t, exec (.admissionSlotRelease p) s = .next t ∧
         Answered (s.setSlot p none) t q.replyTo false [0x20]) ∧
     ∀ i r h, lookup s f.id = some (i, r) → holderIn r p q.replyTo.session = some h → h.revokePending = false →
       f.epoch = r.epoch → (k = .read ∨ h.mode = .exclusive) → h.pendingRelease = [] →
       f.offset + f.length ≤ r.pageCount * 4096 → s.retentionHold = false → s.seq.dram = .ready →
       s.seq.bus ≠ .free → s.seq.idle = false →
       exec (.admissionSlotRelease p) s =
         .next ((s.setSlot p none).setFifo p (s.fifo p ++
           [⟨q.replyTo.tag, h.session, k, i, r.epoch, r.basePage * 4096 + f.offset, f.length, f.data, f.pattern,
             0, false, [], none⟩])))

/-- The arbiter of a READY DRAM (R123, R120, R106): a debt of 8 goes first; else, of the eligible heads, the first one
after the last served port in the order A, B, C, D is granted its burst: its port is the last served, its row is OPEN,
and a READ takes its bytes (the model's moment, log 12). A head that could not start in the event of its admission
(R117) is granted so as the next time passes (the model's moment, log 7). -/
def Obligations.TheArbiterGrantsTheHead : Prop :=
  ∀ (p : Port) (e : Entry) (rest : List Entry) (s : State), s.seq.dram = .ready → s.seq.bus = .free →
    s.seq.retEntry = none → s.fifo p = e :: rest → e.offers = true → leaseStands s p e = true →
    (∀ q x l, s.fifo q = x :: l → x.offers = true → leaseStands s q x = true) →
    (∀ q, eligible s q = true → (Port.index p + 3 - Port.index s.seq.lastServed) % 4
      ≤ (Port.index q + 3 - Port.index s.seq.lastServed) % 4) →
    (s.seq.debt = 8 → (arbiter s).seq.bus = .refresh ∧ (arbiter s).seq.debt = 7 ∧
      (∀ b : Fin 8, (arbiter s).seq.banks[b.val] = .closed) ∧ ∀ q, (arbiter s).fifo q = s.fifo q) ∧
    (s.seq.debt < 8 → s.seq.urgent = false →
      (arbiter s).seq.bus = .burst p (decide (s.params.pagePolicy = .closed)) ∧ (arbiter s).seq.lastServed = p ∧
      (arbiter s).seq.debt = s.seq.debt ∧ (arbiter s).memory = s.memory ∧
      (∀ b : Fin 8, (arbiter s).seq.banks[b.val] =
        if b = bankOf (e.blockAddr e.done) then .opened (rowOf (e.blockAddr e.done)) else s.seq.banks[b.val]) ∧
      (∀ q, q ≠ p → (arbiter s).fifo q = s.fifo q) ∧
      (arbiter s).fifo p =
        { e with
          issued := true
          readData := e.readData ++
            if e.kind = .read then s.memory.readRun e.burstStart e.burstBytes else [] } :: rest) ∧
    ∀ d, s.now < d → s.reach d = { arbiter s with now := d }

/-- The bursts of a transaction cover its range once, in order, at 1 to 16 bytes each, 17 at most for 256 bytes
(R105). -/
def Obligations.BurstsCoverTheRange : Prop :=
  ∀ e : Entry, 1 ≤ e.length → e.bytesIn 0 = 0 ∧ e.bytesIn e.bursts = e.length ∧
    (∀ i, i < e.bursts → e.bytesIn i + 1 ≤ e.bytesIn (i + 1) ∧ e.bytesIn (i + 1) ≤ e.bytesIn i + 16 ∧
      e.blockAddr i % 16 = 0 ∧ e.blockAddr i ≤ e.start + e.bytesIn i ∧
      e.start + e.bytesIn (i + 1) ≤ e.blockAddr i + 16) ∧
    (e.length ≤ 256 → e.bursts ≤ 17) ∧ (e.length ≤ 65536 → e.bursts ≤ 4097)

/-- BURST_COMPLETE (R97 to R99, R105): a WRITE's burst stores its bytes, a FILL's burst its pattern, at the burst's
range; every other byte, and with a READ every byte, reads as before. That a WRITE stores as its burst completes is the
model's choice (log 12). -/
def Obligations.BurstsStoreOnlyTheirBytes : Prop :=
  ∀ (p : Port) (pre : Bool) (e : Entry) (rest : List Entry) (s : State), s.seq.bus = .burst p pre →
    s.fifo p = e :: rest → e.burstStart + e.burstBytes ≤ dramSize → e.done < e.bursts → 1 ≤ e.length →
    (e.kind = .write → e.data.length = e.length) →
    ∃ t, exec .burstComplete s = .next t ∧
      (∀ a, (a < e.burstStart ∨ e.burstStart + e.burstBytes ≤ a) → t.memory.read a = s.memory.read a) ∧
      (e.kind = .read → t.memory = s.memory) ∧
      (e.kind = .write → ∀ j, j < e.burstBytes →
        t.memory.read (e.burstStart + j) = e.data.getD (e.bytesIn e.done + j) 0) ∧
      (e.kind = .fill → ∀ j, j < e.burstBytes → t.memory.read (e.burstStart + j) = e.pattern) ∧
      t.regions = s.regions ∧ t.params = s.params ∧ t.thermal = s.thermal ∧ t.clock = s.clock

/-- The end of a transaction at its last burst (R109, R111): a READ is answered with its bytes and the SUSPECT flag, a
WRITE with OK, a FILL with its byte count; under SILENT no reply is formed. The end is reported. A FILL with a stop
order stops at its burst boundary (R110): PARTIAL with the bytes done and the order as cause. -/
def Obligations.TransactionsEndWithTheirReplies : Prop :=
  (∀ (p : Port) (pre : Bool) (e : Entry) (rest : List Entry) (s : State), s.seq.bus = .burst p pre →
     s.fifo p = e :: rest → e.burstStart + e.burstBytes ≤ dramSize → e.done + 1 = e.bursts → s.isRunning = true →
     ∃ t, exec .burstComplete s = .next t ∧
       (⟨p, e.session, e.region, rest.countP fun x => decide (x.region = e.region)⟩ : EndReport) ∈ t.reports ∧
       (acceptsReply s (e.replyTo p) = true → e.stop ≠ some .silent →
         (t.link p).entry e.tag = .free ∧
         (e.kind = .read → (t.link p).cached e.tag =
           some (replyFrame (e.replyTo p) (decide (s.seq.condition = .suspect)) (0x00 :: e.readData))) ∧
         (e.kind = .write → (t.link p).cached e.tag = some (replyFrame (e.replyTo p) false [0x00])) ∧
         (e.kind = .fill → (t.link p).cached e.tag =
           some (replyFrame (e.replyTo p) false (0x00 :: le32 e.length)))) ∧
       (e.stop = some .silent → (t.link p).cached e.tag = (s.link p).cached e.tag)) ∧
  (∀ (p : Port) (pre : Bool) (e : Entry) (rest : List Entry) (o : StopOrder) (s : State), s.seq.bus = .burst p pre →
     s.fifo p = e :: rest → e.burstStart + e.burstBytes ≤ dramSize → e.done + 1 < e.bursts → e.kind = .fill →
     e.stop = some o → acceptsReply s (e.replyTo p) = true →
     ∃ t, exec .burstComplete s = .next t ∧
       (o = .revoked → (t.link p).cached e.tag =
         some (replyFrame (e.replyTo p) false (0x03 :: (le32 (e.bytesIn (e.done + 1)) ++ [0x33])))) ∧
       (o = .retaining → (t.link p).cached e.tag =
         some (replyFrame (e.replyTo p) false (0x03 :: (le32 (e.bytesIn (e.done + 1)) ++ [0x39])))) ∧
       (o = .silent → (t.link p).cached e.tag = (s.link p).cached e.tag))

/-! ### Recovery and warm restart -/

/-- REINIT (R131): accepted in FAILED with the reference LOCKED and, with nothing in any FIFO or slot and no retention
hold, in READY and POWER_DOWN: the DRAM is INITIALIZING with no debt, and the tag stays in flight. Else BUSY. -/
def Obligations.ReinitBeginsInit : Prop :=
  ∀ (p : Port) (tb : Byte) (s : State), Reaches s p .reinit tb [] →
    ((s.seq.dram = .failed ∧ s.clock.ref = .locked) ∨
        (s.seq.dram = .ready ∧ s.seq.bus ≠ .refresh ∧ engineEmpty s = true ∧ s.retentionHold = false) →
      ∃ t, exec (.reinit p tb []) s = .next t ∧ t.seq.dram = .initializing .resetHold ∧ t.seq.debt = 0 ∧
        (∀ b : Fin 8, t.seq.banks[b.val] = .closed) ∧ t.seq.reinit = some (replyFor s p .reinit tb) ∧
        t.regions = s.regions ∧ t.seq.overruns = s.seq.overruns ∧ t.seq.lastServed = s.seq.lastServed ∧
        t.ports = (takeTag (reportGood s p) p (tagOf tb)).ports) ∧
    (s.seq.dram = .ready → s.seq.bus = .refresh → engineEmpty s = true → s.retentionHold = false →
      ∃ t, exec (.reinit p tb []) s = .next t ∧ t.seq.dram = .initializing .awaitRefresh ∧ t.seq.debt = 0 ∧
        t.seq.bus = .refresh ∧ t.seq.reinit = some (replyFor s p .reinit tb)) ∧
    (∀ k, s.seq.dram = .powerDown k → engineEmpty s = true → s.retentionHold = false →
      ∃ t, exec (.reinit p tb []) s = .next t ∧ t.seq.debt = 0 ∧ t.seq.reinit = some (replyFor s p .reinit tb) ∧
        (s.seq.residency = none → t.seq.dram = .initializing (.leavePowerDown k)) ∧
        (s.seq.residency ≠ none → t.seq.dram = .initializing (.residency k))) ∧
    ((s.seq.dram = .failed ∧ s.clock.ref ≠ .locked) ∨
        ((s.seq.dram = .ready ∨ ∃ k, s.seq.dram = .powerDown k) ∧
          (engineEmpty s = false ∨ s.retentionHold = true)) ∨
        s.seq.dram = .uninitialized ∨ (∃ x, s.seq.dram = .initializing x) ∨ (∃ x y, s.seq.dram = .enteringSr x y) ∨
        (∃ x, s.seq.dram = .selfRefresh x) ∨ (∃ x y, s.seq.dram = .waking x y) ∨
        (∃ x y, s.seq.dram = .retention x y) →
      AnswersStatus (.reinit p tb []) s (replyFor s p .reinit tb) .busy)

/-- RESUME (R170): NOT_LOCKED without the reference; in RETENTION OK and the wake, which clears the hold; else OK.
CLEAR_SUSPECT (R133): SUSPECT becomes RETAINED, and every other condition stays; OK in every DRAM state. -/
def Obligations.ResumeAndClearSuspectRecover : Prop :=
  (∀ (p : Port) (tb : Byte) (s : State), Reaches s p .resume tb [] →
     (s.clock.ref ≠ .locked → AnswersStatus (.resume p tb []) s (replyFor s p .resume tb) .notLocked) ∧
     (s.clock.ref = .locked → (∀ x y, s.seq.dram ≠ .retention x y) →
       AnswersStatus (.resume p tb []) s (replyFor s p .resume tb) .ok) ∧
     ∀ x y, s.clock.ref = .locked → s.seq.dram = .retention x y →
       ∃ t, exec (.resume p tb []) s = .next t ∧ Replied t (replyFor s p .resume tb) [0x00] ∧
         t.retentionHold = false ∧ t.seq.dram = .waking .ready (.retention x) ∧
         t.seq.opTimer = some ⟨700, s.now + 700⟩ ∧ t.regions = s.regions ∧ t.memory = s.memory) ∧
  (∀ (p : Port) (tb : Byte) (s : State), Reaches s p .clearSuspect tb [] →
     (s.seq.condition ≠ .suspect →
       AnswersStatus (.clearSuspect p tb []) s (replyFor s p .clearSuspect tb) .ok) ∧
     (s.seq.condition = .suspect →
       ∃ t, exec (.clearSuspect p tb []) s = .next t ∧ Replied t (replyFor s p .clearSuspect tb) [0x00] ∧
         OffPorts { s with seq := { s.seq with condition := .retained } } t))

/-- RESTART (R171): OK; the warm restart waits for the end of that frame, or for its discarding. RESET_ASSERTED (R171,
R172): a restart with cause PIN begins, or one begun takes cause PIN. Admission slots and entries not started are
discarded, and a DRAM never ready, or failed, is UNINITIALIZED. That the restart is begun with regions, parameters and
sessions as they were, even where no entry has started, is the model's choice (log 1): R172 then lets the reset take
effect in the same event, and the model takes it at its own command. -/
def Obligations.RestartsBegin : Prop :=
  (∀ (p : Port) (tb : Byte) (s : State), Reaches s p .restart tb [] →
     ∃ t, exec (.restart p tb []) s = .next t ∧
       Answered (reportGood s p) t (replyFor s p .restart tb) false [0x00] ∧ t.restart = .running ∧
       ((s.link p).tx = none → (s.link p).responses = [] →
         (t.link p).tx = some ⟨replyFrame (replyFor s p .restart tb) false [0x00], true⟩) ∧
       ((s.link p).tx ≠ none → (t.link p).responses = (s.link p).responses ++
         [⟨.reply, replyFrame (replyFor s p .restart tb) false [0x00], true⟩])) ∧
  (∀ s : State, s.resetPin = .high →
     (s.restart = .running →
       ∃ t, exec .resetAsserted s = .next t ∧ t.restart = .begun .pin ∧ t.resetPin = .low ∧
         (∀ p, t.slot p = none) ∧ (∀ p, ∀ e ∈ t.fifo p, e.started = true) ∧ t.regions = s.regions ∧
         t.params = s.params ∧ (∀ p, t.session p = s.session p) ∧
         ((s.seq.dram = .failed ∨ s.seq.dram = .uninitialized ∨ ∃ x, s.seq.dram = .initializing x) →
           t.seq.dram = .uninitialized)) ∧
     (∀ c, s.restart = .begun c →
       exec .resetAsserted s = .next { s with resetPin := .low, restart := .begun .pin }) ∧
     (s.restart = .awaitingRelease → exec .resetAsserted s = .next { s with resetPin := .low }))

/-- WARM_RESTART_RESET (R173, R134, R132): with no started entry every block takes its reset state, the condition
becomes RETAINED unless SUSPECT, and the restart waits for RESET# or, with cause COMMAND or RESET# high, is released.
What a retention entry keeps over the reset is the model's reading (log 29). RESET_RELEASED (R173): a restart that
waits is released: the straps are sampled, and the lock timer and the Thermal Monitor start. Otherwise only the pin is
high. -/
def Obligations.WarmRestartsResetEveryBlock : Prop :=
  (∀ (x : Straps) (cause : ResetCause) (s : State), s.restart = .begun cause → anyStarted s = false →
     ∃ t, exec (.warmRestartReset x) s = .next t ∧ BlocksAtReset t cause ∧ t.memory = s.memory ∧
       t.seq.overruns = 0 ∧ t.seq.kept = [] ∧ t.seq.lastServed = .d ∧ t.seq.dram = s.seq.dram ∧ t.clock.ref = .locking ∧
       t.thermal.band = .unknown ∧ t.thermal.reading = none ∧
       t.seq.condition = (if s.seq.condition = .suspect then .suspect else .retained) ∧
       (t.retentionHold = true ↔ s.seq.retEntry ≠ none ∨ ∃ a b, s.seq.dram = .retention a b) ∧
       (s.seq.retEntry = none → t.seq.debt = 0 ∧ (∀ b : Fin 8, t.seq.banks[b.val] = .closed) ∧ t.seq.bus = .free) ∧
       (s.seq.retEntry ≠ none → t.seq.debt = s.seq.debt ∧ t.seq.banks = s.seq.banks ∧ t.seq.bus = s.seq.bus) ∧
       ((cause = .command ∨ s.resetPin = .high) →
         t.restart = .running ∧ t.straps = x ∧ Port.index t.supervisor = x.sup.toNat ∧
           t.clock.lockTimer = some ⟨250000, s.now + 250000⟩ ∧
           t.thermal.sampleTimer = some ⟨1000000, s.now + 1000000⟩) ∧
       (¬ (cause = .command ∨ s.resetPin = .high) →
         t.restart = .awaitingRelease ∧ t.clock.lockTimer = none ∧ t.thermal.sampleTimer = none)) ∧
  (∀ (x : Straps) (s : State), s.resetPin = .low →
     (s.restart ≠ .awaitingRelease → exec (.resetReleased x) s = .next { s with resetPin := .high }) ∧
     (s.restart = .awaitingRelease → s.clock.ref = .locking →
       ∃ t, exec (.resetReleased x) s = .next t ∧ t.restart = .running ∧ t.straps = x ∧
         Port.index t.supervisor = x.sup.toNat ∧ t.clock.lockTimer = some ⟨250000, s.now + 250000⟩ ∧
         t.thermal = ⟨none, .unknown, some ⟨1000000, s.now + 1000000⟩, true⟩ ∧ t.ports = s.ports ∧
         t.regions = s.regions ∧ t.seq = s.seq ∧ t.memory = s.memory ∧ t.params = s.params))

/-! ### The Memory Sequencer -/

/-- REFRESH_COMPLETE (R125, R126, R143, R144): with debt left, and an urgent run or no transaction at all, the next
refresh is issued; an entry with debt left issues the next one, and with no debt left takes its final step by the band.
With a retention entry running (R164, R165, R167): a drain that is over grants and refreshes nothing more; an entry
with no debt left reaches RETENTION with every bank CLOSED, its range judged against the band. A REINIT that waited for
the refresh begins init (R131). That the DRAM stays READY at the end of a drain, RETENTION_DRAIN_END being a command of
its own, is the model's choice (log 1); R165 goes on to ENTERING_SR in that event. -/
def Obligations.RefreshesPayTheDebt : Prop :=
  ∀ s : State, s.seq.bus = .refresh →
    (∀ d, s.seq.retEntry = none → s.seq.dram = .ready → s.seq.debt = d + 1 →
      (s.seq.urgent = true ∨ ∀ p, s.fifo p = []) →
      ∃ t, exec .refreshComplete s = .next t ∧ t.seq.dram = .ready ∧ t.seq.bus = .refresh ∧ t.seq.debt = d ∧
        (∀ b : Fin 8, t.seq.banks[b.val] = .closed) ∧ t.regions = s.regions ∧ t.memory = s.memory) ∧
    (∀ d x, s.seq.dram = .enteringSr x .payDebt → s.seq.debt = d + 1 →
      ∃ t, exec .refreshComplete s = .next t ∧ t.seq.dram = .enteringSr x .payDebt ∧
        t.seq.bus = .refresh ∧ t.seq.debt = d ∧ t.seq.retEntry = s.seq.retEntry) ∧
    (s.seq.retEntry = none → s.seq.dram = .enteringSr .selfRefresh .payDebt → s.seq.debt = 0 → (∀ p, s.fifo p = []) →
      (s.thermal.band = .normal →
        ∃ t, exec .refreshComplete s = .next t ∧ t.seq.dram = .selfRefresh .normal ∧ t.memory = s.memory) ∧
      (s.thermal.band = .warm →
        ∃ t, exec .refreshComplete s = .next t ∧ t.seq.dram = .selfRefresh .extended ∧ t.memory = s.memory) ∧
      ((s.thermal.band = .hot ∨ s.thermal.band = .unknown) →
        ∃ t, exec .refreshComplete s = .next t ∧ t.seq.dram = .ready ∧ t.seq.debt = 0 ∧
          (∀ b : Fin 8, t.seq.banks[b.val] = .closed))) ∧
    (s.seq.retEntry ≠ none → s.seq.dram = .ready → anyStarted s = false →
      ∃ t, exec .refreshComplete s = .next t ∧ t.seq.dram = .ready ∧ t.seq.bus = .free ∧ t.seq.debt = s.seq.debt ∧
        t.seq.retEntry = s.seq.retEntry ∧ t.memory = s.memory) ∧
    (∀ why x range, s.seq.retEntry = some why → s.seq.dram = .enteringSr x .payDebt → s.seq.debt = 0 →
      s.clock.ref ≠ .locked →
      range = (if x = .selfRefresh ∧ s.thermal.band = .normal then .normal else .extended) →
      ∃ t, exec .refreshComplete s = .next t ∧ t.seq.dram = .retention range why ∧ t.seq.retEntry = none ∧
        t.seq.debt = 0 ∧ t.seq.bus = .free ∧ (∀ b : Fin 8, t.seq.banks[b.val] = .closed) ∧
        t.retentionHold = s.retentionHold ∧
        (s.thermal.band = .hot → t.seq.condition = .suspect) ∧
        (s.thermal.band ≠ .hot → t.seq.condition = s.seq.condition ∧ t.memory = s.memory)) ∧
    (s.seq.dram = .initializing .awaitRefresh →
      ∃ t, exec .refreshComplete s = .next t ∧ t.seq.dram = .initializing .resetHold ∧ t.seq.debt = 0 ∧
        t.seq.bus = .free ∧ (∀ b : Fin 8, t.seq.banks[b.val] = .closed) ∧ t.seq.reinit = s.seq.reinit)

/-- REFRESH_TICK (R127, R128): the next period has the length the band calls for; the debt rises where the hub
refreshes the DRAM, and a tick at 8 is an overrun, which makes the condition SUSPECT. The high water (R141): a tick
that brings the debt to refresh_high_water in POWER_DOWN wakes the DRAM, and one that does not leaves it there. -/
def Obligations.TicksRaiseTheDebt : Prop :=
  (∀ s : State, ∃ t, exec .refreshTick s = .next t ∧ t.now = max s.now s.seq.tick.deadline ∧
     t.seq.tick.duration = (match s.thermal.band with
       | .normal => 7800
       | .warm => 3900
       | .hot => 1950
       | .unknown => 1950) ∧
     t.seq.tick.deadline = t.now + t.seq.tick.duration ∧ t.regions = s.regions ∧ t.params = s.params ∧
     (((s.seq.dram = .ready ∧ s.seq.bus ≠ .free) ∨ ∃ x y, s.seq.dram = .waking x y) →
       (s.seq.debt < 8 → t.seq.debt = s.seq.debt + 1 ∧ t.memory = s.memory ∧ t.seq.overruns = s.seq.overruns ∧
         t.seq.condition = s.seq.condition) ∧
       (s.seq.debt = 8 → t.seq.debt = 8 ∧ t.seq.overruns = min 65535 (s.seq.overruns + 1) ∧
         t.seq.condition = .suspect)) ∧
     (((∃ x, s.seq.dram = .selfRefresh x) ∨ (∃ x y, s.seq.dram = .retention x y) ∨
         (∃ x y, s.seq.dram = .enteringSr x y) ∨ s.seq.dram = .uninitialized ∨ s.seq.dram = .failed ∨
         ∃ x, s.seq.dram = .initializing x) →
       t.seq.debt = s.seq.debt ∧ t.seq.overruns = s.seq.overruns ∧ t.memory = s.memory)) ∧
  (∀ (s : State) (k : PdKind), s.seq.dram = .powerDown k → s.seq.residency = none → s.seq.debt < 8 →
     (∀ p, s.fifo p = []) →
     ∃ t, exec .refreshTick s = .next t ∧ t.seq.debt = s.seq.debt + 1 ∧
       (s.params.refreshHighWater ≤ s.seq.debt + 1 → t.seq.dram = .waking .ready (.powerDown k)) ∧
       (s.seq.debt + 1 < s.params.refreshHighWater → t.seq.dram = .powerDown k))

/-- PD_TIMER_EXPIRY (R138, R139): the idle DRAM enters the power-down kind its banks and pd_exit call for, for at
least 30 ns. SR_TIMER_EXPIRY (R142, R143): in POWER_DOWN after the residency, a band NORMAL or WARM begins the entry
with the exit of the power-down kind, and a band HOT or UNKNOWN leaves the DRAM there. From READY with a bank open and
no head eligible the entry closes the banks first. -/
def Obligations.IdleDramPowersDown : Prop :=
  (∀ (s : State) (x : Timer), s.seq.pdTimer = some x → s.seq.dram = .ready → (∀ p, s.fifo p = []) →
     ∃ t, exec .pdTimerExpiry s = .next t ∧ OffWork { s with now := max s.now x.deadline } t ∧
       t.seq.dram = .powerDown (if anyBankOpen s.seq then .active
         else if s.params.pdExit = .fast then .prechargeFast else .prechargeSlow) ∧
       t.seq.banks = s.seq.banks ∧ t.seq.debt = s.seq.debt ∧ t.seq.pdTimer = none ∧ t.seq.srTimer = s.seq.srTimer ∧
       t.seq.residency = some ⟨30, max s.now x.deadline + 30⟩) ∧
  (∀ (s : State) (x : Timer), s.seq.srTimer = some x →
     (∀ k, s.seq.dram = .powerDown k → s.seq.residency = none →
       (s.thermal.band.cool = true →
         ∃ t, exec .srTimerExpiry s = .next t ∧ t.seq.dram = .enteringSr .selfRefresh (.leavePowerDown k) ∧
           t.seq.banks = s.seq.banks ∧ t.seq.debt = s.seq.debt ∧ t.memory = s.memory) ∧
       (s.thermal.band.cool = false →
         ∃ t, exec .srTimerExpiry s = .next t ∧ t.seq.dram = .powerDown k ∧ t.seq.srTimer = none ∧
           t.memory = s.memory)) ∧
     (s.seq.dram = .ready → anyEligible s = false → s.thermal.band.cool = true → anyBankOpen s.seq = true →
       ∃ t, exec .srTimerExpiry s = .next t ∧ t.seq.dram = .enteringSr .selfRefresh .closeBanks ∧
         t.seq.pdTimer = none ∧ t.seq.debt = s.seq.debt ∧ t.memory = s.memory))

/-- PD_RESIDENCY_END (R139, R131, R164): with nothing kept the DRAM stays in power-down; the first kept cause that
still holds determines the exit, and a head that is gone has no effect; a retention entry leaves power-down, and so
does an accepted REINIT. The ends of exits, closings and wakes (R140, R143, R149, R169): PD_EXIT_COMPLETE,
BANK_CLOSE_COMPLETE and WAKE_COMPLETE bring the DRAM on, and with debt left and no transaction the next refresh is
issued at once. That a retention entry's exit from POWER_DOWN shows as WAKING with target READY is the model's reading
(log 28). -/
def Obligations.ExitsAndWakesReachReady : Prop :=
  (∀ (s : State) (x : Timer) (k : PdKind), s.seq.residency = some x →
     (s.seq.dram = .powerDown k → (∀ p, s.fifo p = []) →
       (s.seq.kept = [] ∨ ∃ q u, s.seq.kept = [.head q u]) →
       (s.seq.retEntry = none →
         ∃ t, exec .pdResidencyEnd s = .next t ∧ t.seq.dram = .powerDown k ∧ t.seq.residency = none) ∧
       (s.seq.retEntry ≠ none →
         ∃ t, exec .pdResidencyEnd s = .next t ∧ t.seq.dram = .waking .ready (.powerDown k) ∧
           t.seq.residency = none ∧ t.seq.retEntry = s.seq.retEntry)) ∧
     (∀ q e rest more, s.seq.dram = .powerDown k → s.seq.kept = .head q e.tag :: more → s.fifo q = e :: rest →
       eligible s q = true →
       ∃ t, exec .pdResidencyEnd s = .next t ∧ t.seq.dram = .waking .ready (.powerDown k) ∧ t.seq.residency = none) ∧
     (∀ more, s.seq.dram = .powerDown k → s.seq.kept = .srExpiry :: more → s.thermal.band.cool = true →
       ∃ t, exec .pdResidencyEnd s = .next t ∧ t.seq.dram = .enteringSr .selfRefresh (.leavePowerDown k) ∧
         t.seq.residency = none) ∧
     (s.seq.dram = .initializing (.residency k) →
       ∃ t, exec .pdResidencyEnd s = .next t ∧ t.seq.dram = .initializing (.leavePowerDown k) ∧
         t.seq.residency = none)) ∧
  (∀ (s : State) (d : Nat), s.seq.retEntry = none → s.seq.bus = .free → s.seq.debt = d + 1 → (∀ p, s.fifo p = []) →
     (∀ a k, s.seq.dram = .waking a (.powerDown k) →
       ∃ t, exec .pdExitComplete s = .next t ∧ t.seq.dram = .ready ∧ t.seq.bus = .refresh ∧ t.seq.debt = d ∧
         t.memory = s.memory) ∧
     (∀ k, s.seq.dram = .enteringSr .selfRefresh (.leavePowerDown k) → anyBankOpen s.seq = true →
       ∃ t, exec .pdExitComplete s = .next t ∧ t.seq.dram = .enteringSr .selfRefresh .closeBanks ∧
         t.seq.debt = d + 1) ∧
     (∀ y, s.seq.dram = .enteringSr y .closeBanks →
       ∃ t, exec .bankCloseComplete s = .next t ∧ t.seq.dram = .enteringSr y .payDebt ∧ t.seq.bus = .refresh ∧
         t.seq.debt = d ∧ (∀ b : Fin 8, t.seq.banks[b.val] = .closed) ∧ t.memory = s.memory) ∧
     (s.seq.dram = .waking .ready .selfRefresh →
       ∃ t, exec .wakeComplete s = .next t ∧ t.seq.dram = .ready ∧ t.seq.bus = .refresh ∧ t.seq.debt = d ∧
         (∀ b : Fin 8, t.seq.banks[b.val] = .closed) ∧ t.memory = s.memory) ∧
     (s.seq.dram = .waking .selfRefresh .selfRefresh →
       ∃ t, exec .wakeComplete s = .next t ∧ t.seq.dram = .enteringSr .selfRefresh .payDebt ∧ t.seq.debt = d ∧
         t.memory = s.memory) ∧
     (∀ a b, s.seq.dram = .waking a (.retention b) →
       ∃ t, exec .wakeComplete s = .next t ∧ t.seq.dram = .ready ∧ t.seq.debt = d ∧ t.seq.srRef = some t.now ∧
         (∀ b : Fin 8, t.seq.banks[b.val] = .closed) ∧ t.memory = s.memory))

/-- Init (R129, R130, R131): reset hold, mode setting and training follow each other; training with a working delay on
both lanes ends in READY and FRESH, else in FAILED with the condition left as it stood. A REINIT is answered. -/
def Obligations.InitEndsInReadyOrFailed : Prop :=
  ∀ (s : State),
    (s.seq.dram = .initializing .resetHold →
      exec .resetHoldComplete s = .next { s with seq := { s.seq with dram := .initializing .modeSetting } }) ∧
    (s.seq.dram = .initializing .modeSetting →
      exec .modeSettingComplete s = .next { s with seq := { s.seq with dram := .initializing .training } }) ∧
    (s.seq.dram = .initializing .training → ∀ l0 l1,
      (l0 = true ∧ l1 = true → s.seq.bus = .free → s.seq.retEntry = none →
        ∃ t, exec (.trainingComplete l0 l1) s = .next t ∧ t.seq.condition = .fresh ∧ t.seq.debt = 0 ∧
          t.seq.srRef = some s.now ∧ t.seq.reinit = none ∧ t.regions = s.regions ∧ t.memory.trained = true ∧
          ((∀ p, s.fifo p = []) → 0 < s.params.srIdleMs → t.seq.dram = .ready ∧ t.seq.idle = true ∧
            ∀ b : Fin 8, t.seq.banks[b.val] = .closed) ∧
          ∀ q, s.seq.reinit = some q → acceptsReply s q = true → Replied t q [0x00]) ∧
      (l0 = false ∨ l1 = false →
        ∃ t, exec (.trainingComplete l0 l1) s = .next t ∧ t.seq.dram = .failed ∧
          t.seq.condition = s.seq.condition ∧ t.regions = s.regions ∧
          ∀ q, s.seq.reinit = some q → acceptsReply s q = true → Replied t q [0x3A]))

/-- RETENTION_DRAIN_END (R165): the banks are closed if any is open, else the debt is paid, on the way to RETENTION.
LOSS_WINDOW_EXPIRY (R160, R161, R164): LOST, with the lock timer stopped. From LOCKING nothing else; from LOCKED a DRAM
in READY, POWER_DOWN, WAKING, ENTERING_SR or SELF_REFRESH begins a retention entry with reason REF_LOST, one in
RETENTION takes that reason, and an init is aborted. A transaction not started is answered RETAINING (R113), also one
admitted at this moment, which could not start in the event of its admission (R117); one admitted earlier to an idle
READY DRAM has started, and a WRITE goes on (R107; when it starts is the model's choice, log 7). That a wake or an
entry in progress keeps the end of its operation is the model's choice (log 36), and so is it that the exit from
POWER_DOWN shows as WAKING with target READY (log 28). That a READY DRAM with nothing started stays READY at the loss,
the drain's end being a command of its own, is the model's choice (log 1); R165 goes on to ENTERING_SR in that event. -/
def Obligations.ReferenceLossLeadsToRetention : Prop :=
  (∀ (s : State) (reason : RetReason), s.seq.dram = .ready → s.seq.bus = .free → s.seq.retEntry = some reason →
     anyStarted s = false →
     (anyBankOpen s.seq = true →
       ∃ t, exec .retentionDrainEnd s = .next t ∧ t.seq.dram = .enteringSr .retention .closeBanks ∧
         t.seq.retEntry = some reason ∧ t.memory = s.memory) ∧
     (∀ d, anyBankOpen s.seq = false → s.seq.debt = d + 1 →
       ∃ t, exec .retentionDrainEnd s = .next t ∧ t.seq.dram = .enteringSr .retention .payDebt ∧
         t.seq.bus = .refresh ∧ t.seq.debt = d ∧ t.memory = s.memory) ∧
     (anyBankOpen s.seq = false → s.seq.debt = 0 → s.clock.ref ≠ .locked → s.thermal.band ≠ .hot →
       ∃ t, exec .retentionDrainEnd s = .next t ∧ t.seq.dram = .retention .extended reason ∧
         t.seq.retEntry = none ∧ t.memory = s.memory)) ∧
  (∀ s : State,
     (s.clock.ref = .locking →
       exec .lossWindowExpiry s = .next { s.reach (s.clock.lastEdge + 4000) with
         clock := ⟨.lost, none, s.clock.lastEdge⟩ }) ∧
     (s.clock.ref = .locked →
       ∃ t, exec .lossWindowExpiry s = .next t ∧ t.clock = ⟨.lost, none, s.clock.lastEdge⟩ ∧
         t.now = max s.now (s.clock.lastEdge + 4000) ∧ t.regions = s.regions ∧ t.params = s.params ∧
         (entersRetention s.seq.dram = true →
           t.retentionHold = true ∧ t.seq.pdTimer = none ∧ t.seq.srTimer = none ∧
             ∀ p, ∀ e ∈ t.fifo p, e.started = true) ∧
         (s.seq.retEntry = none →
           (s.seq.dram = .ready → t.seq.dram = .ready ∧ t.seq.retEntry = some .refLost) ∧
           (∀ k, s.seq.dram = .powerDown k → t.seq.retEntry = some .refLost ∧
             (s.seq.residency ≠ none → t.seq.dram = .powerDown k) ∧
             (s.seq.residency = none → t.seq.dram = .waking .ready (.powerDown k))) ∧
           (∀ x y, s.seq.dram = .waking x y →
             t.seq.retEntry = some .refLost ∧ t.seq.opTimer = s.seq.opTimer ∧ ∃ x', t.seq.dram = .waking x' y) ∧
           (∀ x y, s.seq.dram = .enteringSr x y →
             t.seq.retEntry = some .refLost ∧ t.seq.opTimer = s.seq.opTimer ∧ t.seq.dram = .enteringSr x y) ∧
           (∀ r, s.seq.dram = .selfRefresh r → t.seq.dram = .retention r .refLost)) ∧
         (∀ r why, s.seq.dram = .retention r why → s.isRunning = true →
           t.seq.dram = .retention r .refLost ∧ t.memory = s.memory) ∧
         ((∃ st, s.seq.dram = .initializing st) → t.seq.dram = .uninitialized ∧ t.retentionHold = s.retentionHold ∧
           ∀ q, s.seq.reinit = some q → acceptsReply s q = true → Replied t q [0x38]) ∧
         (s.seq.dram = .uninitialized ∨ s.seq.dram = .failed →
           t.seq.dram = s.seq.dram ∧ t.retentionHold = s.retentionHold) ∧
         (∀ p e, entersRetention s.seq.dram = true → s.fifo p = [e] → acceptsReply s (e.replyTo p) = true →
           e.started = false →
           (s.clock.lastEdge + 4000 ≤ s.now ∨ s.seq.dram ≠ .ready ∨ s.seq.bus ≠ .free ∨ anyEligible s = false) →
           t.fifo p = [] ∧ Replied t (e.replyTo p) [0x39]) ∧
         ∀ p e, s.now < s.clock.lastEdge + 4000 → s.seq.dram = .ready → s.seq.bus = .free → s.seq.retEntry = none →
           s.seq.debt = 0 → s.fifo p = [e] → (∀ q, q ≠ p → s.fifo q = []) → eligible s p = true → e.kind = .write →
           t.fifo p = [{ e with issued := true }] ∧
             t.seq.bus = .burst p (decide (s.params.pagePolicy = .closed))))

/-! ### Temperature and clock -/

/-- A valid sample (R151): the reading is its result, the next conversion starts and the sample timer restarts; from
NORMAL, WARM and HOT the band follows with hysteresis (R152). The moment of the sample is the model's choice (log 3). -/
def Obligations.BandsFollowTheThresholds : Prop :=
  ∀ (s : State) (x : Timer) (reading : Int), s.resetPin = .high → s.thermal.sampleTimer = some x → -40 ≤ reading →
    reading ≤ 150 →
    ∃ t, exec (.thermalSample (some reading)) s = .next t ∧
      t.thermal = ⟨some reading, t.thermal.band, some ⟨1000000, max s.now x.deadline + 1000000⟩, true⟩ ∧
      (s.thermal.band = .normal →
        (s.params.hotThreshold ≤ reading → t.thermal.band = .hot) ∧
        (s.params.warmThreshold ≤ reading → reading < s.params.hotThreshold → t.thermal.band = .warm) ∧
        (reading < s.params.warmThreshold → reading < s.params.hotThreshold → t.thermal.band = .normal)) ∧
      (s.thermal.band = .warm →
        (s.params.hotThreshold ≤ reading → t.thermal.band = .hot) ∧
        (reading ≤ (s.params.warmThreshold : Int) - 3 → reading < s.params.hotThreshold → t.thermal.band = .normal) ∧
        ((s.params.warmThreshold : Int) - 3 < reading → reading < s.params.hotThreshold → t.thermal.band = .warm)) ∧
      (s.thermal.band = .hot →
        (reading ≤ (s.params.warmThreshold : Int) - 3 → t.thermal.band = .normal) ∧
        ((s.params.warmThreshold : Int) - 3 < reading → reading ≤ (s.params.hotThreshold : Int) - 3 →
          t.thermal.band = .warm) ∧
        ((s.params.warmThreshold : Int) - 3 < reading → (s.params.hotThreshold : Int) - 3 < reading →
          t.thermal.band = .hot))

/-- The band after a valid sample from UNKNOWN, without hysteresis (R153), and after an invalid one, which leaves no
reading (R151, R154). The moment of a sample is the model's choice (log 3). While RESET# is low no sample is taken
(R159). -/
def Obligations.SensorFaultsMakeTheBandUnknown : Prop :=
  (∀ (s : State) (result : Option Int), s.resetPin = .low → exec (.thermalSample result) s = .next s) ∧
  ∀ (s : State) (x : Timer), s.resetPin = .high → s.thermal.sampleTimer = some x →
    (∀ reading : Int, s.thermal.band = .unknown → -40 ≤ reading → reading ≤ 150 →
      ∃ t, exec (.thermalSample (some reading)) s = .next t ∧ t.thermal.reading = some reading ∧
        ((s.params.hotThreshold : Int) ≤ reading → t.thermal.band = .hot) ∧
        ((s.params.warmThreshold : Int) ≤ reading → reading < s.params.hotThreshold → t.thermal.band = .warm) ∧
        (reading < s.params.warmThreshold → reading < s.params.hotThreshold → t.thermal.band = .normal)) ∧
    ∀ result : Option Int, (∀ reading, result = some reading → reading < -40 ∨ 150 < reading) →
      ∃ t, exec (.thermalSample result) s = .next t ∧
        t.thermal = ⟨none, .unknown, some ⟨1000000, max s.now x.deadline + 1000000⟩, true⟩ ∧
        t.now = max s.now x.deadline ∧ t.regions = s.regions ∧ t.params = s.params

/-- REF_EDGE (R160): from LOST the lock timer starts from 0 and the state is LOCKING; else only the loss window starts
again. LOCK_TIMER_EXPIRY (R162, R168): LOCKED, at the strapped rate, and REF_RESTORED is posted; an UNINITIALIZED DRAM
begins init; a DRAM in RETENTION wakes, unless it waits for RESUME under the SUPERVISED policy; a FAILED DRAM stays
FAILED. From the beginning of a warm restart to its reset it is LOCKED too, with no notice (R172), and a DRAM whose
reset is due stays as it is (the model's choice, log 18). -/
def Obligations.EdgesAndLocksRestoreTheDram : Prop :=
  (∀ s : State,
     (s.clock.ref = .lost → s.restart ≠ .awaitingRelease →
       exec .refEdge s = .next { s with clock := ⟨.locking, some ⟨250000, s.now + 250000⟩, s.now⟩ }) ∧
     (s.clock.ref ≠ .lost →
       exec .refEdge s = .next { s with clock := ⟨s.clock.ref, s.clock.lockTimer, s.now⟩ })) ∧
  (∀ (s : State) (x : Timer), s.clock.ref = .locking → s.clock.lockTimer = some x → s.isRunning = false →
     ∃ t, exec .lockTimerExpiry s = .next t ∧ t.clock = ⟨.locked, none, s.clock.lastEdge⟩ ∧
       t.now = max s.now x.deadline ∧ t.restart = s.restart ∧ t.regions = s.regions ∧ t.params = s.params ∧
       (∀ p, t.notices p = s.notices p) ∧
       transmitKbits t = (match s.straps.rateFirst, s.straps.rateSecond with
         | false, false => 6000
         | true, false => 12000
         | false, true => 25000
         | true, true => 6000) ∧
       ((s.seq.dram = .uninitialized ∨ ∃ x y, s.seq.dram = .retention x y) →
         t.seq.dram = s.seq.dram ∧ t.retentionHold = s.retentionHold ∧ t.memory = s.memory)) ∧
  (∀ (s : State) (x : Timer), s.clock.ref = .locking → s.clock.lockTimer = some x → s.isRunning = true →
     ∃ t, exec .lockTimerExpiry s = .next t ∧ t.clock = ⟨.locked, none, s.clock.lastEdge⟩ ∧
       t.now = max s.now x.deadline ∧ t.regions = s.regions ∧ t.params = s.params ∧
       transmitKbits t = (match s.straps.rateFirst, s.straps.rateSecond with
         | false, false => 6000
         | true, false => 12000
         | false, true => 25000
         | true, true => 6000) ∧
       (∀ p, (s.session p).live = true → (s.link p).tx ≠ none → (s.notices p).queue.length < 16 →
         (t.notices p).queue = (s.notices p).queue ++ [.refRestored]) ∧
       (s.seq.dram = .uninitialized → t.seq.dram = .initializing .resetHold ∧ t.seq.debt = 0 ∧
         ∀ b : Fin 8, t.seq.banks[b.val] = .closed) ∧
       (s.seq.dram = .failed → t.seq.dram = .failed) ∧
       (∀ r, s.seq.dram = .retention r .restart →
         t.seq.dram = .waking .ready (.retention r) ∧ t.retentionHold = false ∧ t.memory = s.memory) ∧
       (∀ r, s.seq.dram = .retention r .refLost → s.params.resumePolicy = .auto →
         t.seq.dram = .waking .ready (.retention r) ∧ t.retentionHold = false ∧ t.memory = s.memory) ∧
       (∀ r, s.seq.dram = .retention r .refLost → s.params.resumePolicy = .supervised →
         t.seq.dram = .retention r .refLost ∧ t.retentionHold = s.retentionHold ∧ t.memory = s.memory))
end

