-- ==== Sys2Proof/Laws/State.lean ====
section
/-! SUPPORT. Every field after every update of the state: true by rfl, for the simplifier. -/

namespace Sys2Proof.Machine

section
variable (s : State) (p : Port) (x : PortState)
@[simp] theorem setPort_now : (s.setPort p x).now = s.now := rfl
@[simp] theorem setPort_pending : (s.setPort p x).pending = s.pending := rfl
@[simp] theorem setPort_resetPin : (s.setPort p x).resetPin = s.resetPin := rfl
@[simp] theorem setPort_straps : (s.setPort p x).straps = s.straps := rfl
@[simp] theorem setPort_restart : (s.setPort p x).restart = s.restart := rfl
@[simp] theorem setPort_supervisor : (s.setPort p x).supervisor = s.supervisor := rfl
@[simp] theorem setPort_bootCause : (s.setPort p x).bootCause = s.bootCause := rfl
@[simp] theorem setPort_params : (s.setPort p x).params = s.params := rfl
@[simp] theorem setPort_regions : (s.setPort p x).regions = s.regions := rfl
@[simp] theorem setPort_retentionHold : (s.setPort p x).retentionHold = s.retentionHold := rfl
@[simp] theorem setPort_reports : (s.setPort p x).reports = s.reports := rfl
@[simp] theorem setPort_seq : (s.setPort p x).seq = s.seq := rfl
@[simp] theorem setPort_memory : (s.setPort p x).memory = s.memory := rfl
@[simp] theorem setPort_thermal : (s.setPort p x).thermal = s.thermal := rfl
@[simp] theorem setPort_clock : (s.setPort p x).clock = s.clock := rfl
end

section
variable (s : State) (p : Port) (x : Link)
@[simp] theorem setLink_now : (s.setLink p x).now = s.now := rfl
@[simp] theorem setLink_pending : (s.setLink p x).pending = s.pending := rfl
@[simp] theorem setLink_resetPin : (s.setLink p x).resetPin = s.resetPin := rfl
@[simp] theorem setLink_straps : (s.setLink p x).straps = s.straps := rfl
@[simp] theorem setLink_restart : (s.setLink p x).restart = s.restart := rfl
@[simp] theorem setLink_supervisor : (s.setLink p x).supervisor = s.supervisor := rfl
@[simp] theorem setLink_bootCause : (s.setLink p x).bootCause = s.bootCause := rfl
@[simp] theorem setLink_params : (s.setLink p x).params = s.params := rfl
@[simp] theorem setLink_regions : (s.setLink p x).regions = s.regions := rfl
@[simp] theorem setLink_retentionHold : (s.setLink p x).retentionHold = s.retentionHold := rfl
@[simp] theorem setLink_reports : (s.setLink p x).reports = s.reports := rfl
@[simp] theorem setLink_seq : (s.setLink p x).seq = s.seq := rfl
@[simp] theorem setLink_memory : (s.setLink p x).memory = s.memory := rfl
@[simp] theorem setLink_thermal : (s.setLink p x).thermal = s.thermal := rfl
@[simp] theorem setLink_clock : (s.setLink p x).clock = s.clock := rfl
end

section
variable (s : State) (p : Port) (x : Session)
@[simp] theorem setSession_now : (s.setSession p x).now = s.now := rfl
@[simp] theorem setSession_pending : (s.setSession p x).pending = s.pending := rfl
@[simp] theorem setSession_resetPin : (s.setSession p x).resetPin = s.resetPin := rfl
@[simp] theorem setSession_straps : (s.setSession p x).straps = s.straps := rfl
@[simp] theorem setSession_restart : (s.setSession p x).restart = s.restart := rfl
@[simp] theorem setSession_supervisor : (s.setSession p x).supervisor = s.supervisor := rfl
@[simp] theorem setSession_bootCause : (s.setSession p x).bootCause = s.bootCause := rfl
@[simp] theorem setSession_params : (s.setSession p x).params = s.params := rfl
@[simp] theorem setSession_regions : (s.setSession p x).regions = s.regions := rfl
@[simp] theorem setSession_retentionHold : (s.setSession p x).retentionHold = s.retentionHold := rfl
@[simp] theorem setSession_reports : (s.setSession p x).reports = s.reports := rfl
@[simp] theorem setSession_seq : (s.setSession p x).seq = s.seq := rfl
@[simp] theorem setSession_memory : (s.setSession p x).memory = s.memory := rfl
@[simp] theorem setSession_thermal : (s.setSession p x).thermal = s.thermal := rfl
@[simp] theorem setSession_clock : (s.setSession p x).clock = s.clock := rfl
end

section
variable (s : State) (p : Port) (x : Notices)
@[simp] theorem setNotices_now : (s.setNotices p x).now = s.now := rfl
@[simp] theorem setNotices_pending : (s.setNotices p x).pending = s.pending := rfl
@[simp] theorem setNotices_resetPin : (s.setNotices p x).resetPin = s.resetPin := rfl
@[simp] theorem setNotices_straps : (s.setNotices p x).straps = s.straps := rfl
@[simp] theorem setNotices_restart : (s.setNotices p x).restart = s.restart := rfl
@[simp] theorem setNotices_supervisor : (s.setNotices p x).supervisor = s.supervisor := rfl
@[simp] theorem setNotices_bootCause : (s.setNotices p x).bootCause = s.bootCause := rfl
@[simp] theorem setNotices_params : (s.setNotices p x).params = s.params := rfl
@[simp] theorem setNotices_regions : (s.setNotices p x).regions = s.regions := rfl
@[simp] theorem setNotices_retentionHold : (s.setNotices p x).retentionHold = s.retentionHold := rfl
@[simp] theorem setNotices_reports : (s.setNotices p x).reports = s.reports := rfl
@[simp] theorem setNotices_seq : (s.setNotices p x).seq = s.seq := rfl
@[simp] theorem setNotices_memory : (s.setNotices p x).memory = s.memory := rfl
@[simp] theorem setNotices_thermal : (s.setNotices p x).thermal = s.thermal := rfl
@[simp] theorem setNotices_clock : (s.setNotices p x).clock = s.clock := rfl
end

section
variable (s : State) (p : Port) (x : List Entry)
@[simp] theorem setFifo_now : (s.setFifo p x).now = s.now := rfl
@[simp] theorem setFifo_pending : (s.setFifo p x).pending = s.pending := rfl
@[simp] theorem setFifo_resetPin : (s.setFifo p x).resetPin = s.resetPin := rfl
@[simp] theorem setFifo_straps : (s.setFifo p x).straps = s.straps := rfl
@[simp] theorem setFifo_restart : (s.setFifo p x).restart = s.restart := rfl
@[simp] theorem setFifo_supervisor : (s.setFifo p x).supervisor = s.supervisor := rfl
@[simp] theorem setFifo_bootCause : (s.setFifo p x).bootCause = s.bootCause := rfl
@[simp] theorem setFifo_params : (s.setFifo p x).params = s.params := rfl
@[simp] theorem setFifo_regions : (s.setFifo p x).regions = s.regions := rfl
@[simp] theorem setFifo_retentionHold : (s.setFifo p x).retentionHold = s.retentionHold := rfl
@[simp] theorem setFifo_reports : (s.setFifo p x).reports = s.reports := rfl
@[simp] theorem setFifo_seq : (s.setFifo p x).seq = s.seq := rfl
@[simp] theorem setFifo_memory : (s.setFifo p x).memory = s.memory := rfl
@[simp] theorem setFifo_thermal : (s.setFifo p x).thermal = s.thermal := rfl
@[simp] theorem setFifo_clock : (s.setFifo p x).clock = s.clock := rfl
end

section
variable (s : State) (p : Port) (x : Option Request)
@[simp] theorem setSlot_now : (s.setSlot p x).now = s.now := rfl
@[simp] theorem setSlot_pending : (s.setSlot p x).pending = s.pending := rfl
@[simp] theorem setSlot_resetPin : (s.setSlot p x).resetPin = s.resetPin := rfl
@[simp] theorem setSlot_straps : (s.setSlot p x).straps = s.straps := rfl
@[simp] theorem setSlot_restart : (s.setSlot p x).restart = s.restart := rfl
@[simp] theorem setSlot_supervisor : (s.setSlot p x).supervisor = s.supervisor := rfl
@[simp] theorem setSlot_bootCause : (s.setSlot p x).bootCause = s.bootCause := rfl
@[simp] theorem setSlot_params : (s.setSlot p x).params = s.params := rfl
@[simp] theorem setSlot_regions : (s.setSlot p x).regions = s.regions := rfl
@[simp] theorem setSlot_retentionHold : (s.setSlot p x).retentionHold = s.retentionHold := rfl
@[simp] theorem setSlot_reports : (s.setSlot p x).reports = s.reports := rfl
@[simp] theorem setSlot_seq : (s.setSlot p x).seq = s.seq := rfl
@[simp] theorem setSlot_memory : (s.setSlot p x).memory = s.memory := rfl
@[simp] theorem setSlot_thermal : (s.setSlot p x).thermal = s.thermal := rfl
@[simp] theorem setSlot_clock : (s.setSlot p x).clock = s.clock := rfl
end

section
variable (s : State) (i : RegionId) (r : Option Region)
@[simp] theorem setRegion_now : (s.setRegion i r).now = s.now := rfl
@[simp] theorem setRegion_pending : (s.setRegion i r).pending = s.pending := rfl
@[simp] theorem setRegion_resetPin : (s.setRegion i r).resetPin = s.resetPin := rfl
@[simp] theorem setRegion_straps : (s.setRegion i r).straps = s.straps := rfl
@[simp] theorem setRegion_restart : (s.setRegion i r).restart = s.restart := rfl
@[simp] theorem setRegion_ports : (s.setRegion i r).ports = s.ports := rfl
@[simp] theorem setRegion_supervisor : (s.setRegion i r).supervisor = s.supervisor := rfl
@[simp] theorem setRegion_bootCause : (s.setRegion i r).bootCause = s.bootCause := rfl
@[simp] theorem setRegion_params : (s.setRegion i r).params = s.params := rfl
@[simp] theorem setRegion_retentionHold : (s.setRegion i r).retentionHold = s.retentionHold := rfl
@[simp] theorem setRegion_reports : (s.setRegion i r).reports = s.reports := rfl
@[simp] theorem setRegion_seq : (s.setRegion i r).seq = s.seq := rfl
@[simp] theorem setRegion_memory : (s.setRegion i r).memory = s.memory := rfl
@[simp] theorem setRegion_thermal : (s.setRegion i r).thermal = s.thermal := rfl
@[simp] theorem setRegion_clock : (s.setRegion i r).clock = s.clock := rfl
end

section
variable (s : State) (q : Sequencer)
@[simp] theorem setSeq_now : (s.setSeq q).now = s.now := rfl
@[simp] theorem setSeq_pending : (s.setSeq q).pending = s.pending := rfl
@[simp] theorem setSeq_resetPin : (s.setSeq q).resetPin = s.resetPin := rfl
@[simp] theorem setSeq_straps : (s.setSeq q).straps = s.straps := rfl
@[simp] theorem setSeq_restart : (s.setSeq q).restart = s.restart := rfl
@[simp] theorem setSeq_ports : (s.setSeq q).ports = s.ports := rfl
@[simp] theorem setSeq_supervisor : (s.setSeq q).supervisor = s.supervisor := rfl
@[simp] theorem setSeq_bootCause : (s.setSeq q).bootCause = s.bootCause := rfl
@[simp] theorem setSeq_params : (s.setSeq q).params = s.params := rfl
@[simp] theorem setSeq_regions : (s.setSeq q).regions = s.regions := rfl
@[simp] theorem setSeq_retentionHold : (s.setSeq q).retentionHold = s.retentionHold := rfl
@[simp] theorem setSeq_reports : (s.setSeq q).reports = s.reports := rfl
@[simp] theorem setSeq_memory : (s.setSeq q).memory = s.memory := rfl
@[simp] theorem setSeq_thermal : (s.setSeq q).thermal = s.thermal := rfl
@[simp] theorem setSeq_clock : (s.setSeq q).clock = s.clock := rfl
end

@[simp] theorem setSeq_seq (s : State) (q : Sequencer) : (s.setSeq q).seq = q := rfl

end Sys2Proof.Machine
end

