-- ==== Sys2Proof/Laws/Ports.lean ====
section
/-! SUPPORT. The tables by port and by region: what a read finds after a write. -/

namespace Sys2Proof.Machine

@[simp] theorem get_set_self {α : Type} (t : PerPort α) (p : Port) (x : α) : (t.set p x).get p = x := by
  cases p <;> rfl

theorem get_set_ne {α : Type} (t : PerPort α) {p q : Port} (x : α) (h : q ≠ p) : (t.set p x).get q = t.get q := by
  cases p <;> cases q <;> first | rfl | exact absurd rfl h

theorem get_set {α : Type} (t : PerPort α) (p q : Port) (x : α) :
    (t.set p x).get q = if q = p then x else t.get q := by
  split
  · next h => subst h; simp
  · next h => exact get_set_ne t x h

@[simp] theorem port_setPort_self (s : State) (p : Port) (x : PortState) : (s.setPort p x).port p = x := by
  simp [State.port, State.setPort]

theorem port_setPort_ne (s : State) {p q : Port} (x : PortState) (h : q ≠ p) :
    (s.setPort p x).port q = s.port q := by
  simp [State.port, State.setPort, get_set_ne _ _ h]

/-- Two states with the same tables by port agree on every port. -/
theorem port_congr {s t : State} (h : t.ports = s.ports) (p : Port) : t.port p = s.port p := by
  simp [State.port, h]

/-! ### A write of one part of a port leaves the others -/

section
variable (s : State) (p : Port)

@[simp] theorem link_setLink_self (x : Link) : (s.setLink p x).link p = x := by
  simp [State.link, State.setLink]
@[simp] theorem session_setLink (x : Link) (q : Port) : (s.setLink p x).session q = s.session q := by
  by_cases h : q = p
  · subst h; simp [State.session, State.setLink]
  · simp [State.session, State.setLink, port_setPort_ne s _ h]
@[simp] theorem notices_setLink (x : Link) (q : Port) : (s.setLink p x).notices q = s.notices q := by
  by_cases h : q = p
  · subst h; simp [State.notices, State.setLink]
  · simp [State.notices, State.setLink, port_setPort_ne s _ h]
@[simp] theorem fifo_setLink (x : Link) (q : Port) : (s.setLink p x).fifo q = s.fifo q := by
  by_cases h : q = p
  · subst h; simp [State.fifo, State.setLink]
  · simp [State.fifo, State.setLink, port_setPort_ne s _ h]
@[simp] theorem slot_setLink (x : Link) (q : Port) : (s.setLink p x).slot q = s.slot q := by
  by_cases h : q = p
  · subst h; simp [State.slot, State.setLink]
  · simp [State.slot, State.setLink, port_setPort_ne s _ h]
/-- A port's link written back is no change. -/
theorem setLink_link : s.setLink p (s.link p) = s := by
  cases s; cases p <;> rfl
theorem link_setLink_ne {q : Port} (x : Link) (h : q ≠ p) : (s.setLink p x).link q = s.link q := by
  simp [State.link, State.setLink, port_setPort_ne s _ h]

@[simp] theorem session_setSession_self (x : Session) : (s.setSession p x).session p = x := by
  simp [State.session, State.setSession]
@[simp] theorem link_setSession (x : Session) (q : Port) : (s.setSession p x).link q = s.link q := by
  by_cases h : q = p
  · subst h; simp [State.link, State.setSession]
  · simp [State.link, State.setSession, port_setPort_ne s _ h]
@[simp] theorem notices_setSession (x : Session) (q : Port) : (s.setSession p x).notices q = s.notices q := by
  by_cases h : q = p
  · subst h; simp [State.notices, State.setSession]
  · simp [State.notices, State.setSession, port_setPort_ne s _ h]
@[simp] theorem fifo_setSession (x : Session) (q : Port) : (s.setSession p x).fifo q = s.fifo q := by
  by_cases h : q = p
  · subst h; simp [State.fifo, State.setSession]
  · simp [State.fifo, State.setSession, port_setPort_ne s _ h]
@[simp] theorem slot_setSession (x : Session) (q : Port) : (s.setSession p x).slot q = s.slot q := by
  by_cases h : q = p
  · subst h; simp [State.slot, State.setSession]
  · simp [State.slot, State.setSession, port_setPort_ne s _ h]
theorem session_setSession_ne {q : Port} (x : Session) (h : q ≠ p) :
    (s.setSession p x).session q = s.session q := by
  simp [State.session, State.setSession, port_setPort_ne s _ h]

@[simp] theorem notices_setNotices_self (x : Notices) : (s.setNotices p x).notices p = x := by
  simp [State.notices, State.setNotices]
@[simp] theorem link_setNotices (x : Notices) (q : Port) : (s.setNotices p x).link q = s.link q := by
  by_cases h : q = p
  · subst h; simp [State.link, State.setNotices]
  · simp [State.link, State.setNotices, port_setPort_ne s _ h]
@[simp] theorem session_setNotices (x : Notices) (q : Port) : (s.setNotices p x).session q = s.session q := by
  by_cases h : q = p
  · subst h; simp [State.session, State.setNotices]
  · simp [State.session, State.setNotices, port_setPort_ne s _ h]
@[simp] theorem fifo_setNotices (x : Notices) (q : Port) : (s.setNotices p x).fifo q = s.fifo q := by
  by_cases h : q = p
  · subst h; simp [State.fifo, State.setNotices]
  · simp [State.fifo, State.setNotices, port_setPort_ne s _ h]
@[simp] theorem slot_setNotices (x : Notices) (q : Port) : (s.setNotices p x).slot q = s.slot q := by
  by_cases h : q = p
  · subst h; simp [State.slot, State.setNotices]
  · simp [State.slot, State.setNotices, port_setPort_ne s _ h]

@[simp] theorem fifo_setFifo_self (x : List Entry) : (s.setFifo p x).fifo p = x := by
  simp [State.fifo, State.setFifo]
theorem fifo_setFifo_ne {q : Port} (x : List Entry) (h : q ≠ p) : (s.setFifo p x).fifo q = s.fifo q := by
  simp [State.fifo, State.setFifo, port_setPort_ne s _ h]
@[simp] theorem link_setFifo (x : List Entry) (q : Port) : (s.setFifo p x).link q = s.link q := by
  by_cases h : q = p
  · subst h; simp [State.link, State.setFifo]
  · simp [State.link, State.setFifo, port_setPort_ne s _ h]
@[simp] theorem session_setFifo (x : List Entry) (q : Port) : (s.setFifo p x).session q = s.session q := by
  by_cases h : q = p
  · subst h; simp [State.session, State.setFifo]
  · simp [State.session, State.setFifo, port_setPort_ne s _ h]
@[simp] theorem notices_setFifo (x : List Entry) (q : Port) : (s.setFifo p x).notices q = s.notices q := by
  by_cases h : q = p
  · subst h; simp [State.notices, State.setFifo]
  · simp [State.notices, State.setFifo, port_setPort_ne s _ h]
@[simp] theorem slot_setFifo (x : List Entry) (q : Port) : (s.setFifo p x).slot q = s.slot q := by
  by_cases h : q = p
  · subst h; simp [State.slot, State.setFifo]
  · simp [State.slot, State.setFifo, port_setPort_ne s _ h]

@[simp] theorem slot_setSlot_self (x : Option Request) : (s.setSlot p x).slot p = x := by
  simp [State.slot, State.setSlot]
@[simp] theorem fifo_setSlot (x : Option Request) (q : Port) : (s.setSlot p x).fifo q = s.fifo q := by
  by_cases h : q = p
  · subst h; simp [State.fifo, State.setSlot]
  · simp [State.fifo, State.setSlot, port_setPort_ne s _ h]
@[simp] theorem link_setSlot (x : Option Request) (q : Port) : (s.setSlot p x).link q = s.link q := by
  by_cases h : q = p
  · subst h; simp [State.link, State.setSlot]
  · simp [State.link, State.setSlot, port_setPort_ne s _ h]
@[simp] theorem notices_setSlot (x : Option Request) (q : Port) : (s.setSlot p x).notices q = s.notices q := by
  by_cases h : q = p
  · subst h; simp [State.notices, State.setSlot]
  · simp [State.notices, State.setSlot, port_setPort_ne s _ h]
@[simp] theorem session_setSlot (x : Option Request) (q : Port) : (s.setSlot p x).session q = s.session q := by
  by_cases h : q = p
  · subst h; simp [State.session, State.setSlot]
  · simp [State.session, State.setSlot, port_setPort_ne s _ h]

end

/-! ### Regions, in-flight entries, cache slots -/

@[simp] theorem region_setRegion_self (s : State) (i : RegionId) (r : Option Region) :
    (s.setRegion i r).region i = r := by
  simp [State.region, State.setRegion]

theorem region_setRegion_ne (s : State) {i j : RegionId} (r : Option Region) (h : j ≠ i) :
    (s.setRegion i r).region j = s.region j := by
  have h' : i.val ≠ j.val := fun e => h (Fin.ext e.symm)
  simp [State.region, State.setRegion, h']

theorem region_congr {s t : State} (h : t.regions = s.regions) (i : RegionId) : t.region i = s.region i := by
  simp [State.region, h]

theorem withEntry_self (l : Link) (t : Tag) (x : InFlight) : (l.withEntry t x)[t.val] = x := by
  simp [Link.withEntry]

theorem withEntry_ne (l : Link) {t u : Tag} (x : InFlight) (h : u ≠ t) : (l.withEntry t x)[u.val] = l.entry u := by
  have h' : t.val ≠ u.val := fun e => h (Fin.ext e.symm)
  simp [Link.withEntry, Link.entry, h']

theorem withCached_self (l : Link) (t : Tag) (f : Frame) : (l.withCached t f)[t.val] = some f := by
  simp [Link.withCached]

theorem withCached_ne (l : Link) {t u : Tag} (f : Frame) (h : u ≠ t) :
    (l.withCached t f)[u.val] = l.cached u := by
  have h' : t.val ≠ u.val := fun e => h (Fin.ext e.symm)
  simp [Link.withCached, Link.cached, h']

end Sys2Proof.Machine
end

