-- ==== Sys2Proof/Laws/Receiver.lean ====
section
/-! SUPPORT. The receiver: from HUNT, the bytes of a frame of at most 320 payload bytes end as that good frame, a bad
frame's end is followed by HUNT, and bytes keep a receiver where section 1.3 lets it stand. -/

namespace Sys2Proof.Machine

theorem u16_le16 (n : Nat) (h : n < 65536) : u16 (BitVec.ofNat 8 n) (BitVec.ofNat 8 (n / 256)) = n := by
  simp only [u16, BitVec.toNat_ofNat]
  omega

theorem u16_bytes (n : Nat) : u16 (BitVec.ofNat 8 n) (BitVec.ofNat 8 (n / 256)) = n % 65536 := by
  simp only [u16, BitVec.toNat_ofNat]
  omega

theorem headerLength_append (got x : List Byte) (h : 4 ≤ got.length) :
    headerLength (got ++ x) = headerLength got := by
  simp only [headerLength, List.getD_eq_getElem?_getD]
  rw [List.getElem?_append_left (by omega), List.getElem?_append_left (by omega)]

theorem hear_none {now : Nat} {r r' : Receiver} {b : Byte} {rest : List Byte} (h : r.feed now b = (r', none)) :
    r.hear now (b :: rest) = r'.hear now rest := by simp [Receiver.hear, h]

theorem hear_some {now : Nat} {r r' : Receiver} {b : Byte} {e : RxEvent} {rest : List Byte}
    (h : r.feed now b = (r', some e)) :
    r.hear now (b :: rest) = ((r'.hear now rest).1, e :: (r'.hear now rest).2) := by simp [Receiver.hear, h]

/-- Bytes in two parts: the second part is heard where the first leaves the receiver. -/
theorem hear_append (now : Nat) : ∀ (x y : List Byte) (r : Receiver), r.hear now (x ++ y)
    = (((r.hear now x).1.hear now y).1, (r.hear now x).2 ++ ((r.hear now x).1.hear now y).2)
  | [], _, _ => rfl
  | b :: x, y, r => by simp [Receiver.hear, hear_append now x y]

/-- Bytes without a start marker leave a receiver in HUNT there (R4). -/
theorem hear_noise (now : Nat) : ∀ noise : List Byte, startMarker ∉ noise →
    Receiver.idle.hear now noise = (Receiver.idle, [])
  | [], _ => rfl
  | b :: noise, h => by
    have hb : ¬ b = startMarker := fun e => h (by simp [e])
    have hf : Receiver.idle.feed now b = (Receiver.idle, none) := by simp [Receiver.feed, Receiver.idle, hb]
    rw [hear_none hf]
    exact hear_noise now noise fun hm => h (List.mem_cons_of_mem _ hm)

/-- PAYLOAD takes the rest of the payload and goes to CHECK (R6). -/
theorem hear_payload (now : Nat) (tail : List Byte) :
    ∀ (rest got : List Byte) (g : Option Timer), 4 ≤ got.length → rest ≠ [] →
      got.length + rest.length = 4 + headerLength got →
      Receiver.hear now ⟨.payload, got, g⟩ (rest ++ tail)
        = Receiver.hear now ⟨.check, got ++ rest, some (gapTimer now)⟩ tail := by
  intro rest
  induction rest with
  | nil => intro got g _ h; exact absurd rfl h
  | cons b rest ih =>
    intro got g h4 _ hl
    have hh : headerLength (got ++ [b]) = headerLength got := headerLength_append got [b] h4
    simp only [List.length_cons] at hl
    by_cases hr : rest = []
    · subst hr
      simp only [List.length_nil] at hl
      have hlen : ¬ (got ++ [b]).length < 4 + headerLength (got ++ [b]) := by
        rw [hh]; simp only [List.length_append, List.length_singleton]; omega
      have hf : Receiver.feed now ⟨.payload, got, g⟩ b = (⟨.check, got ++ [b], some (gapTimer now)⟩, none) := by
        simp only [Receiver.feed, hlen, if_false]
      exact hear_none hf
    · have hpos : 0 < rest.length := List.length_pos_iff.mpr hr
      have hlen : (got ++ [b]).length < 4 + headerLength (got ++ [b]) := by
        rw [hh]; simp only [List.length_append, List.length_singleton]; omega
      have hf : Receiver.feed now ⟨.payload, got, g⟩ b = (⟨.payload, got ++ [b], some (gapTimer now)⟩, none) := by
        simp only [Receiver.feed, hlen, if_true]
      rw [List.cons_append, hear_none hf, ih (got ++ [b]) _ (by simp only [List.length_append]; omega) hr
        (by rw [hh]; simp only [List.length_append, List.length_singleton]; omega)]
      simp only [List.append_assoc, List.cons_append, List.nil_append]

/-- CHECK takes two bytes and ends the frame; what follows is heard in HUNT (R4, R6). -/
theorem hear_check (now : Nat) (got : List Byte) (g : Option Timer) (lo hi : Byte) (tail : List Byte)
    (h4 : 4 ≤ got.length) (hl : got.length = 4 + headerLength got) :
    Receiver.hear now ⟨.check, got, g⟩ (lo :: hi :: tail)
      = ((Receiver.idle.hear now tail).1,
          checkFrame (got ++ [lo] ++ [hi]) :: (Receiver.idle.hear now tail).2) := by
  have h1 : headerLength (got ++ [lo]) = headerLength got := headerLength_append got [lo] h4
  have h2 : headerLength (got ++ [lo] ++ [hi]) = headerLength got := by
    rw [headerLength_append _ _ (by simp only [List.length_append]; omega), h1]
  have c1 : (got ++ [lo]).length < 6 + headerLength (got ++ [lo]) := by
    rw [h1]; simp only [List.length_append, List.length_singleton]; omega
  have c2 : ¬ (got ++ [lo] ++ [hi]).length < 6 + headerLength (got ++ [lo] ++ [hi]) := by
    rw [h2]; simp only [List.length_append, List.length_singleton]; omega
  have f1 : Receiver.feed now ⟨.check, got, g⟩ lo = (⟨.check, got ++ [lo], some (gapTimer now)⟩, none) := by
    simp only [Receiver.feed, c1, if_true]
  have f2 : Receiver.feed now ⟨.check, got ++ [lo], some (gapTimer now)⟩ hi
      = (Receiver.idle, some (checkFrame (got ++ [lo] ++ [hi]))) := by
    simp only [Receiver.feed, c2, if_false]
  rw [hear_none f1, hear_some f2]

/-- The four bytes of a header after the start marker, up to the length's second byte (R4, R5). -/
theorem hear_header (now : Nat) (k t l0 l1 : Byte) (tail : List Byte) :
    Receiver.hear now Receiver.idle (startMarker :: k :: t :: l0 :: l1 :: tail)
      = Receiver.hear now ⟨.header, [k, t, l0], some (gapTimer now)⟩ (l1 :: tail) := by
  simp [Receiver.hear, Receiver.feed, Receiver.idle]

/-- The header's four bytes, with a length that the receiver takes, and the payload of that length (R5, R6). -/
theorem hear_body (now : Nat) (k t l0 l1 : Byte) (payload : List Byte) (lo hi : Byte) (tail : List Byte)
    (hl : u16 l0 l1 = payload.length) (hmax : payload.length ≤ 320) :
    Receiver.hear now Receiver.idle
        (startMarker :: k :: t :: l0 :: l1 :: (payload ++ lo :: hi :: tail))
      = ((Receiver.idle.hear now tail).1,
          checkFrame (k :: t :: l0 :: l1 :: payload ++ [lo] ++ [hi]) :: (Receiver.idle.hear now tail).2) := by
  have hh : headerLength ([k, t, l0] ++ [l1]) = payload.length := hl
  have hno : ¬ 320 < payload.length := by omega
  rw [hear_header]
  by_cases hp : payload = []
  · subst hp
    have hf : Receiver.feed now ⟨.header, [k, t, l0], some (gapTimer now)⟩ l1
        = (⟨.check, [k, t, l0, l1], some (gapTimer now)⟩, none) := by
      simp [Receiver.feed, headerLength] at hh ⊢; simp [hh]
    rw [hear_none hf]
    have h0 : headerLength [k, t, l0, l1] = 0 := hh
    exact hear_check now [k, t, l0, l1] _ lo hi tail (by simp) (by rw [h0]; rfl)
  · have hne : payload.length ≠ 0 := by simpa using hp
    have hf : Receiver.feed now ⟨.header, [k, t, l0], some (gapTimer now)⟩ l1
        = (⟨.payload, [k, t, l0, l1], some (gapTimer now)⟩, none) := by
      simp [Receiver.feed, headerLength] at hh ⊢; simp [hh, hno, hp]
    have hh' : headerLength [k, t, l0, l1] = payload.length := hh
    rw [hear_none hf, hear_payload now (lo :: hi :: tail) payload [k, t, l0, l1] _ (by simp) hp
      (by rw [hh']; simp)]
    have hb : headerLength ([k, t, l0, l1] ++ payload) = payload.length := by
      rw [headerLength_append _ _ (by simp), hh']
    exact hear_check now _ _ lo hi tail (by simp) (by rw [hb]; simp; omega)

/-- The check of received bytes whose length field is right: the CRC decides (R6). -/
theorem checkFrame_body (k t l0 l1 : Byte) (payload : List Byte) (lo hi : Byte)
    (hl : u16 l0 l1 = payload.length) :
    checkFrame (k :: t :: l0 :: l1 :: payload ++ [lo] ++ [hi])
      = if u16 lo hi = (crc16 (k :: t :: l0 :: l1 :: payload)).toNat then .good ⟨k, t, payload⟩
        else .bad .badCrc := by
  have hh : headerLength (k :: t :: l0 :: l1 :: payload ++ [lo] ++ [hi]) = payload.length := hl
  have htake : (k :: t :: l0 :: l1 :: payload ++ [lo] ++ [hi]).take (4 + payload.length)
      = k :: t :: l0 :: l1 :: payload := by
    rw [List.append_assoc, List.take_append_of_le_length (by simp; omega), List.take_of_length_le (by simp; omega)]
  have hlo : (k :: t :: l0 :: l1 :: payload ++ [lo] ++ [hi]).getD (4 + payload.length) 0 = lo := by
    have e : 4 + payload.length = payload.length + 1 + 1 + 1 + 1 := by omega
    rw [e]
    simp [List.getD_eq_getElem?_getD]
  have hhi : (k :: t :: l0 :: l1 :: payload ++ [lo] ++ [hi]).getD (4 + payload.length + 1) 0 = hi := by
    have e : 4 + payload.length + 1 = payload.length + 1 + 1 + 1 + 1 + 1 := by omega
    rw [e]
    simp [List.getD_eq_getElem?_getD]
  unfold checkFrame
  simp only [hh, htake, hlo, hhi]
  rfl

/-- The bytes of a frame with at most 320 payload bytes, from HUNT, are that good frame (R3 to R6, R184). -/
theorem hear_wire (now : Nat) (f : Frame) (h : f.payload.length ≤ 320) :
    Receiver.idle.hear now f.wire = (Receiver.idle, [.good f]) := by
  obtain ⟨k, t, pl⟩ := f
  have hl : u16 (BitVec.ofNat 8 pl.length) (BitVec.ofNat 8 (pl.length / 256)) = pl.length :=
    u16_le16 _ (by simp only at h; omega)
  have hb : Frame.body ⟨k, t, pl⟩
      = k :: t :: BitVec.ofNat 8 pl.length :: BitVec.ofNat 8 (pl.length / 256) :: pl := by
    simp [Frame.body, le16]
  have hw : Frame.wire ⟨k, t, pl⟩
      = startMarker :: k :: t :: BitVec.ofNat 8 pl.length :: BitVec.ofNat 8 (pl.length / 256) ::
          (pl ++ BitVec.ofNat 8 (crc16 (Frame.body ⟨k, t, pl⟩)).toNat ::
            BitVec.ofNat 8 ((crc16 (Frame.body ⟨k, t, pl⟩)).toNat / 256) :: []) := by
    simp [Frame.wire, le16, hb]
  rw [hw, hear_body now k t _ _ pl _ _ [] hl h, checkFrame_body k t _ _ pl _ _ hl, ← hb,
    if_pos (u16_le16 _ (crc16 (Frame.body ⟨k, t, pl⟩)).isLt)]
  rfl

/-- A payload that is too long ends as OVERLENGTH where its length field says so, and what follows is heard in HUNT
(R4, R5). -/
theorem hear_overlength (now : Nat) (k t l0 l1 : Byte) (tail : List Byte) (h : 320 < u16 l0 l1) :
    Receiver.hear now Receiver.idle (startMarker :: k :: t :: l0 :: l1 :: tail)
      = ((Receiver.idle.hear now tail).1, .bad .overlength :: (Receiver.idle.hear now tail).2) := by
  have hf : Receiver.feed now ⟨.header, [k, t, l0], some (gapTimer now)⟩ l1
      = (Receiver.idle, some (.bad .overlength)) := by
    have hh : 320 < headerLength ([k, t, l0] ++ [l1]) := h
    simp [Receiver.feed] at hh ⊢; simp [hh]
  rw [hear_header, hear_some hf]

/-! ### Where a receiver can stand -/

theorem idle_sound : Receiver.idle.Sound := rfl

/-- One byte keeps a receiver where section 1.3 lets it stand. -/
theorem feed_sound (now : Nat) (r : Receiver) (b : Byte) (h : r.Sound) : (r.feed now b).1.Sound := by
  obtain ⟨mode, got, gap⟩ := r
  have happ : 4 ≤ got.length → headerLength (got ++ [b]) = headerLength got := headerLength_append got [b]
  have hlen : (got ++ [b]).length = got.length + 1 := by simp
  cases mode <;> simp only [Receiver.Sound] at h <;> simp only [Receiver.feed]
  · by_cases hb : b = startMarker
    · rw [if_pos hb]; exact ⟨Nat.zero_lt_succ 3, rfl⟩
    · rw [if_neg hb]; exact idle_sound
  · by_cases h4 : (got ++ [b]).length < 4
    · rw [if_pos h4]; exact ⟨h4, rfl⟩
    · rw [if_neg h4]
      by_cases hbig : 320 < headerLength (got ++ [b])
      · rw [if_pos hbig]; exact idle_sound
      · rw [if_neg hbig]
        by_cases h0 : headerLength (got ++ [b]) = 0
        · rw [if_pos h0]; exact ⟨by simp only; omega, by simp only; omega, by simp only; omega, rfl⟩
        · rw [if_neg h0]; exact ⟨by simp only; omega, by simp only; omega, by simp only; omega, rfl⟩
  · have hh := happ h.1
    by_cases hl : (got ++ [b]).length < 4 + headerLength (got ++ [b])
    · rw [if_pos hl]; exact ⟨by simp only; omega, hl, by simp only; omega, rfl⟩
    · rw [if_neg hl]; exact ⟨by simp only; omega, by simp only; omega, by simp only; omega, rfl⟩
  · have hh := happ (by omega)
    by_cases hl : (got ++ [b]).length < 6 + headerLength (got ++ [b])
    · rw [if_pos hl]; exact ⟨by simp only; omega, hl, by simp only; omega, rfl⟩
    · rw [if_neg hl]; exact idle_sound

/-- Bytes keep a receiver where section 1.3 lets it stand. -/
theorem hear_sound (now : Nat) : ∀ (bytes : List Byte) (r : Receiver), r.Sound → (r.hear now bytes).1.Sound
  | [], _, h => h
  | b :: rest, r, h => hear_sound now rest _ (feed_sound now r b h)

end Sys2Proof.Machine
end

