-- ==== Sys2Proof/Laws/Handover.lean ====
section
/-! SUPPORT. What the arbiter, the hand-overs and the posting of notices change: only the tables by port, and there
only the port concerned. -/

namespace Sys2Proof.Machine

/-! ### Nothing but the tables by port -/

theorem OffPorts.refl (s : State) : OffPorts s s := rfl

theorem OffPorts.trans {s t u : State} (h : OffPorts s t) (g : OffPorts t u) : OffPorts s u := by
  cases s; cases t; cases u
  simp only [OffPorts, State.mk.injEq] at h g ⊢
  simp_all

theorem OffPorts.eq {s t : State} (h : OffPorts s t) : { t with ports := s.ports } = s := h

section
variable {s t : State} (h : OffPorts s t)
include h
theorem OffPorts.now : t.now = s.now := (congrArg State.now h.eq :)
theorem OffPorts.pending : t.pending = s.pending := (congrArg State.pending h.eq :)
theorem OffPorts.resetPin : t.resetPin = s.resetPin := (congrArg State.resetPin h.eq :)
theorem OffPorts.straps : t.straps = s.straps := (congrArg State.straps h.eq :)
theorem OffPorts.restart : t.restart = s.restart := (congrArg State.restart h.eq :)
theorem OffPorts.supervisor : t.supervisor = s.supervisor := (congrArg State.supervisor h.eq :)
theorem OffPorts.bootCause : t.bootCause = s.bootCause := (congrArg State.bootCause h.eq :)
theorem OffPorts.params : t.params = s.params := (congrArg State.params h.eq :)
theorem OffPorts.regions : t.regions = s.regions := (congrArg State.regions h.eq :)
theorem OffPorts.retentionHold : t.retentionHold = s.retentionHold := (congrArg State.retentionHold h.eq :)
theorem OffPorts.reports : t.reports = s.reports := (congrArg State.reports h.eq :)
theorem OffPorts.seq : t.seq = s.seq := (congrArg State.seq h.eq :)
theorem OffPorts.memory : t.memory = s.memory := (congrArg State.memory h.eq :)
theorem OffPorts.thermal : t.thermal = s.thermal := (congrArg State.thermal h.eq :)
theorem OffPorts.clock : t.clock = s.clock := (congrArg State.clock h.eq :)
theorem OffPorts.isRunning : t.isRunning = s.isRunning := by simp [State.isRunning, h.restart]
theorem OffPorts.region (i : RegionId) : t.region i = s.region i := region_congr h.regions i
end

/-- A fold of steps each of which changes only the tables by port. -/
theorem OffPorts.foldl {α : Type} (f : State → α → State) (hf : ∀ s a, OffPorts s (f s a)) :
    ∀ (l : List α) (s : State), OffPorts s (l.foldl f s)
  | [], s => OffPorts.refl s
  | a :: l, s => (hf s a).trans (OffPorts.foldl f hf l (f s a))

theorem setPort_offPorts (s : State) (p : Port) (x : PortState) : OffPorts s (s.setPort p x) := rfl
theorem setLink_offPorts (s : State) (p : Port) (x : Link) : OffPorts s (s.setLink p x) := rfl
theorem setSession_offPorts (s : State) (p : Port) (x : Session) : OffPorts s (s.setSession p x) := rfl
theorem setNotices_offPorts (s : State) (p : Port) (x : Notices) : OffPorts s (s.setNotices p x) := rfl
theorem setFifo_offPorts (s : State) (p : Port) (x : List Entry) : OffPorts s (s.setFifo p x) := rfl
theorem setSlot_offPorts (s : State) (p : Port) (x : Option Request) : OffPorts s (s.setSlot p x) := rfl

theorem sendNotice_offPorts (s : State) (p : Port) (n : Notice) (rest : List Notice) :
    OffPorts s (sendNotice s p n rest) := rfl

/-- The arbiter changes only the tables by port. -/
theorem arbitrate_offPorts (s : State) (p : Port) : OffPorts s (arbitrate s p) := by
  unfold arbitrate
  split
  · split
    · exact OffPorts.refl s
    · split
      · exact setLink_offPorts _ _ _
      · split
        · split
          · exact sendNotice_offPorts _ _ _ _
          · exact OffPorts.refl s
        · exact OffPorts.refl s
  · exact OffPorts.refl s

theorem handRefusal_offPorts (s : State) (p : Port) (c : RespClass) (f : Frame) :
    OffPorts s (handRefusal s p c f) := by
  unfold handRefusal
  split
  · exact (setLink_offPorts _ _ _).trans (arbitrate_offPorts _ _)
  · exact OffPorts.refl s

theorem refuse_offPorts (s : State) (p : Port) (t : Tag) (r : RefuseReason) : OffPorts s (refuse s p t r) :=
  handRefusal_offPorts _ _ _ _

theorem handReply_offPorts (s : State) (r : ReplyTo) (suspect restart : Bool) (pl : List Byte) :
    OffPorts s (handReply s r suspect restart pl) := by
  unfold handReply
  split
  · exact (setLink_offPorts _ _ _).trans (arbitrate_offPorts _ _)
  · exact OffPorts.refl s

theorem reply_offPorts (s : State) (r : ReplyTo) (pl : List Byte) : OffPorts s (reply s r pl) :=
  handReply_offPorts _ _ _ _ _

theorem answer_offPorts (s : State) (r : ReplyTo) (st : Status) : OffPorts s (answer s r st) := reply_offPorts _ _ _

theorem post_offPorts (s : State) (p : Port) (n : Notice) : OffPorts s (post s p n) := by
  unfold post
  split
  · exact (setNotices_offPorts _ _ _).trans (arbitrate_offPorts _ _)
  · exact OffPorts.refl s

theorem postAll_offPorts (s : State) (n : Notice) : OffPorts s (postAll s n) :=
  OffPorts.foldl _ (fun t p => post_offPorts t p n) allPorts s

theorem postSupervisor_offPorts (s : State) (n : Notice) : OffPorts s (postSupervisor s n) := post_offPorts _ _ _

theorem postEntry_offPorts (s : State) (p : Port) (m : SessNo) (lost : Bool) (n : Notice) :
    OffPorts s (postEntry s p m lost n) := by
  unfold postEntry
  split
  · exact post_offPorts _ _ _
  · exact OffPorts.refl s

theorem takeTag_offPorts (s : State) (p : Port) (t : Tag) : OffPorts s (takeTag s p t) := rfl

theorem reportGood_offPorts (s : State) (p : Port) : OffPorts s (reportGood s p) := by
  unfold reportGood
  dsimp only
  split <;> rfl

/-! ### Only the port concerned -/

theorem arbitrate_port_ne (s : State) {p q : Port} (h : q ≠ p) : (arbitrate s p).port q = s.port q := by
  unfold arbitrate
  split
  · split
    · rfl
    · split
      · exact port_setPort_ne _ _ h
      · split
        · split
          · exact (port_setPort_ne _ _ h).trans (port_setPort_ne _ _ h)
          · rfl
        · rfl
  · rfl

theorem handReply_port_ne (s : State) (r : ReplyTo) (suspect restart : Bool) (pl : List Byte) {q : Port}
    (h : q ≠ r.port) : (handReply s r suspect restart pl).port q = s.port q := by
  unfold handReply
  split
  · exact (arbitrate_port_ne _ h).trans (port_setPort_ne _ _ h)
  · rfl

theorem handRefusal_port_ne (s : State) (p : Port) (c : RespClass) (f : Frame) {q : Port} (h : q ≠ p) :
    (handRefusal s p c f).port q = s.port q := by
  unfold handRefusal
  split
  · exact (arbitrate_port_ne _ h).trans (port_setPort_ne _ _ h)
  · rfl

theorem post_port_ne (s : State) (p : Port) (n : Notice) {q : Port} (h : q ≠ p) : (post s p n).port q = s.port q := by
  unfold post
  split
  · exact (arbitrate_port_ne _ h).trans (port_setPort_ne _ _ h)
  · rfl

/-! ### What no hand-over and no notice touches: sessions, FIFOs, slots -/

theorem arbitrate_parts (s : State) (p q : Port) :
    (arbitrate s p).session q = s.session q ∧ (arbitrate s p).fifo q = s.fifo q ∧
      (arbitrate s p).slot q = s.slot q := by
  unfold arbitrate
  split
  · split
    · exact ⟨rfl, rfl, rfl⟩
    · split
      · simp
      · split
        · split
          · simp [sendNotice]
          · exact ⟨rfl, rfl, rfl⟩
        · exact ⟨rfl, rfl, rfl⟩
  · exact ⟨rfl, rfl, rfl⟩

@[simp] theorem arbitrate_session (s : State) (p q : Port) : (arbitrate s p).session q = s.session q :=
  (arbitrate_parts s p q).1
@[simp] theorem arbitrate_fifo (s : State) (p q : Port) : (arbitrate s p).fifo q = s.fifo q :=
  (arbitrate_parts s p q).2.1
@[simp] theorem arbitrate_slot (s : State) (p q : Port) : (arbitrate s p).slot q = s.slot q :=
  (arbitrate_parts s p q).2.2

@[simp] theorem handReply_session (s : State) (r : ReplyTo) (a b : Bool) (pl : List Byte) (q : Port) :
    (handReply s r a b pl).session q = s.session q := by
  unfold handReply; split <;> simp
@[simp] theorem handReply_fifo (s : State) (r : ReplyTo) (a b : Bool) (pl : List Byte) (q : Port) :
    (handReply s r a b pl).fifo q = s.fifo q := by
  unfold handReply; split <;> simp
@[simp] theorem handReply_slot (s : State) (r : ReplyTo) (a b : Bool) (pl : List Byte) (q : Port) :
    (handReply s r a b pl).slot q = s.slot q := by
  unfold handReply; split <;> simp

@[simp] theorem post_session (s : State) (p : Port) (n : Notice) (q : Port) :
    (post s p n).session q = s.session q := by
  unfold post; split <;> simp
@[simp] theorem post_fifo (s : State) (p : Port) (n : Notice) (q : Port) : (post s p n).fifo q = s.fifo q := by
  unfold post; split <;> simp

/-! ### A reply that is accepted -/

/-- With a response waiting the arbiter lets no notice pass, and the frames on their way out stay in line (R15). -/
theorem arbitrate_waiting (s : State) (p : Port) (h : (s.link p).responses ≠ []) :
    outgoing (arbitrate s p) p = outgoing s p ∧
      { (arbitrate s p).link p with responses := (s.link p).responses, tx := (s.link p).tx } = s.link p ∧
      OffLink s (arbitrate s p) p := by
  unfold arbitrate
  split
  · split
    · exact ⟨rfl, rfl, rfl, rfl, rfl, rfl⟩
    · next hx =>
      split
      · next r rest hr =>
        refine ⟨?_, ?_, ?_⟩
        · simp [outgoing, hx, hr]
        · simp only [link_setLink_self]
        · simp [OffLink]
      · next hr => exact absurd hr h
  · exact ⟨rfl, rfl, rfl, rfl, rfl, rfl⟩

/-- An accepted reply: freed, cached, put in line, and nothing else (R11). -/
theorem answered_handReply (s : State) (r : ReplyTo) (suspect restart : Bool) (pl : List Byte)
    (h : acceptsReply s r = true) : Answered s (handReply s r suspect restart pl) r suspect pl := by
  have hoff := handReply_offPorts s r suspect restart pl
  have hne : ∀ q, q ≠ r.port → (handReply s r suspect restart pl).port q = s.port q :=
    fun q hq => handReply_port_ne s r suspect restart pl hq
  revert hoff hne
  unfold handReply
  rw [if_pos h]
  intro hoff hne
  set u := s.setLink r.port { s.link r.port with
    inFlight := (s.link r.port).withEntry r.tag .free
    cache := (s.link r.port).withCached r.tag (replyFrame r suspect pl)
    responses := (s.link r.port).responses ++ [⟨.reply, replyFrame r suspect pl, restart⟩] } with hu
  have hul : u.link r.port = { s.link r.port with
      inFlight := (s.link r.port).withEntry r.tag .free
      cache := (s.link r.port).withCached r.tag (replyFrame r suspect pl)
      responses := (s.link r.port).responses ++ [⟨.reply, replyFrame r suspect pl, restart⟩] } := by
    rw [hu]; simp
  have hw : (u.link r.port).responses ≠ [] := by rw [hul]; simp
  obtain ⟨h1, h2, h3⟩ := arbitrate_waiting u r.port hw
  have e1 : ((arbitrate u r.port).link r.port).rx = (s.link r.port).rx := by
    have := congrArg Link.rx h2; rw [hul] at this; exact this
  have e2 : ((arbitrate u r.port).link r.port).badFrames = (s.link r.port).badFrames := by
    have := congrArg Link.badFrames h2; rw [hul] at this; exact this
  have e3 : ((arbitrate u r.port).link r.port).credit = (s.link r.port).credit := by
    have := congrArg Link.credit h2; rw [hul] at this; exact this
  have e4 : ((arbitrate u r.port).link r.port).inFlight = (s.link r.port).withEntry r.tag .free := by
    have := congrArg Link.inFlight h2; rw [hul] at this; exact this
  have e5 : ((arbitrate u r.port).link r.port).cache
      = (s.link r.port).withCached r.tag (replyFrame r suspect pl) := by
    have := congrArg Link.cache h2; rw [hul] at this; exact this
  refine ⟨hoff, hne, ?_, e1, e2, e3, ?_, ?_, ?_, ?_, ?_⟩
  · simpa [OffLink, hu] using h3
  · simp [Link.entry, e4, withEntry_self]
  · intro v hv
    simp only [Link.entry, e4]
    exact withEntry_ne _ _ hv
  · simp [Link.cached, e5, withCached_self]
  · intro v hv
    simp only [Link.cached, e5]
    exact withCached_ne _ _ hv
  · rw [h1]
    simp [outgoing, hul]

/-- A REFUSE or NAK handed over (R15). -/
theorem refused_handRefusal (s : State) (p : Port) (c : RespClass) (f : Frame) :
    Refused s (handRefusal s p c f) p f := by
  have hoff := handRefusal_offPorts s p c f
  have hne : ∀ q, q ≠ p → (handRefusal s p c f).port q = s.port q := fun q hq => handRefusal_port_ne s p c f hq
  revert hoff hne
  unfold handRefusal
  split
  · next h =>
    intro hoff hne
    set u := s.setLink p { s.link p with responses := (s.link p).responses ++ [⟨c, f, false⟩] } with hu
    have hul : u.link p = { s.link p with responses := (s.link p).responses ++ [⟨c, f, false⟩] } := by
      rw [hu]; simp
    have hw : (u.link p).responses ≠ [] := by rw [hul]; simp
    obtain ⟨h1, h2, h3⟩ := arbitrate_waiting u p hw
    refine ⟨hoff, hne, ?_, ?_, ?_⟩
    · simpa [OffLink, hu] using h3
    · have := congrArg (fun l : Link => { l with responses := (s.link p).responses, tx := (s.link p).tx }) h2
      rw [hul] at this
      exact this
    · rw [h1, if_pos h]; simp [outgoing, hul]
  · next h =>
    intro hoff hne
    exact ⟨hoff, hne, ⟨rfl, rfl, rfl, rfl⟩, rfl, by rw [if_neg h]⟩

/-! ### A request that is taken -/

theorem andThen_next (o : Host.Outcome State Fault Refusal) : andThen o .next = o := by cases o <;> rfl

/-- A frame that is heard reaches its handler, once reported (R6, R10). -/
theorem receive_heard (s : State) (p : Port) (f : Frame) (handle : State → Host.Outcome State Fault Refusal)
    (h : Hears s p) (hf : f.payload.length ≤ 320) : receive p f s handle = handle (reportGood s p) := by
  have hb : hearBytes s p f.wire = (s, [.good f]) := by
    unfold hearBytes
    rw [h.2, hear_wire _ _ hf, ← h.2]
    exact congrArg (·, [RxEvent.good f]) (setLink_link s p)
  unfold receive
  rw [hb]
  simp only [List.all_cons, List.all_nil, RxEvent.fits, decide_true, Bool.and_true, h.1, if_true, hearFrames]
  exact andThen_next _

@[simp] theorem reportGood_entry (s : State) (p : Port) (t : Tag) :
    ((reportGood s p).link p).entry t = (s.link p).entry t := by
  unfold reportGood
  dsimp only
  split <;> simp [Link.entry]

theorem reportGood_state (s : State) (p : Port) :
    ((reportGood s p).session p).state = (s.session p).state := by
  unfold reportGood
  dsimp only
  split <;> simp_all

theorem reportGood_number (s : State) (p : Port) :
    ((reportGood s p).session p).number = (s.session p).number := by
  unfold reportGood
  dsimp only
  split <;> simp_all

theorem reportGood_live (s : State) (p : Port) :
    ((reportGood s p).session p).live = (s.session p).live := by
  unfold Session.live
  rw [reportGood_state]

theorem reportGood_present (s : State) (p : Port) :
    (reportGood s p).presentSession p = s.presentSession p := by
  unfold State.presentSession
  rw [reportGood_live, reportGood_number]

/-- A request that is taken goes through the checks of R18 to its owner. -/
theorem request_taken (s : State) (p : Port) (k : Kind) (tb : Byte) (pl : List Byte)
    (owner : State → Request → Host.Outcome State Fault Refusal) (h : Takes s p tb pl) :
    request p k tb pl owner s =
      match sessionRefusal (reportGood s p) p k with
      | some st => .next (answer (takeTag (reportGood s p) p (tagOf tb)) (replyFor s p k tb) st)
      | none => owner (takeTag (reportGood s p) p (tagOf tb)) ⟨replyFor s p k tb, tb, pl⟩ := by
  unfold request
  rw [receive_heard s p _ _ h.1 h.2.1]
  unfold routeRequest
  rw [reportGood_entry, h.2.2]
  rw [reportGood_present]
  cases sessionRefusal (reportGood s p) p k <;> rfl

/-- An admitted request reaches its owner. -/
theorem request_admitted (s : State) (p : Port) (k : Kind) (tb : Byte) (pl : List Byte)
    (owner : State → Request → Host.Outcome State Fault Refusal) (h : Takes s p tb pl) (ha : Admitted s p k) :
    request p k tb pl owner s = owner (takeTag (reportGood s p) p (tagOf tb)) ⟨replyFor s p k tb, tb, pl⟩ := by
  rw [request_taken s p k tb pl owner h]
  have hsup : (reportGood s p).supervisor = s.supervisor := (reportGood_offPorts s p).supervisor
  have : sessionRefusal (reportGood s p) p k = none := by
    unfold sessionRefusal
    rw [reportGood_state, ha.1, hsup]
    by_cases hk : k = .hello
    · simp [hk]
    · simp only [hk, if_false]
      by_cases hs : k.supervisorOnly = true
      · simp [ha.2 hs]
      · simp [hs]
  rw [this]

/-- The reply to a request that has just been taken is accepted. -/
theorem accepts_taken (s : State) (p : Port) (k : Kind) (tb : Byte) :
    acceptsReply (takeTag (reportGood s p) p (tagOf tb)) (replyFor s p k tb) = true := by
  have hp : (takeTag (reportGood s p) p (tagOf tb)).presentSession p = s.presentSession p := by
    unfold State.presentSession
    simp only [takeTag, session_setLink]
    rw [reportGood_live, reportGood_number]
  unfold acceptsReply
  simp only [replyFor, hp, decide_true, Bool.and_true]
  simp [takeTag, Link.entry, withEntry_self, reportGood_present]

/-- What is said of the state after the tag was taken is said of the state before. -/
theorem Answered.beforeTake {s t : State} {p : Port} {k : Kind} {tb : Byte} {suspect : Bool} {pl : List Byte}
    (h : Answered (takeTag (reportGood s p) p (tagOf tb)) t (replyFor s p k tb) suspect pl) :
    Answered (reportGood s p) t (replyFor s p k tb) suspect pl := by
  have hl : (takeTag (reportGood s p) p (tagOf tb)).link p
      = { (reportGood s p).link p with
          inFlight := ((reportGood s p).link p).withEntry (tagOf tb)
            (.taken ((reportGood s p).presentSession p)) } := by
    simp [takeTag]
  refine ⟨(takeTag_offPorts _ _ _).trans h.rest, ?_, ?_, ?_, ?_, ?_, h.freed, ?_, h.cached, ?_, ?_⟩
  · intro q hq
    rw [h.others q hq]
    exact port_setPort_ne _ _ hq
  · simpa [OffLink, takeTag] using h.port
  · have := h.rx; simpa [replyFor, hl] using this
  · have := h.badFrames; simpa [replyFor, hl] using this
  · have := h.credit; simpa [replyFor, hl] using this
  · intro u hu
    have := h.otherTags u hu
    simp only [replyFor] at this hu ⊢
    rw [this, hl]
    simpa [Link.entry] using withEntry_ne ((reportGood s p).link p) _ hu
  · intro u hu
    have := h.otherSlots u hu
    simp only [replyFor] at this ⊢
    rw [this, hl]
    rfl
  · have := h.sent
    simp only [replyFor] at this ⊢
    rw [this]
    simp [outgoing, hl]

end Sys2Proof.Machine
end

