-- ==== Sys2Proof/Laws/Closed.lean ====
section
/-! SUPPORT. What the operations of the Transaction Engine and the Lease Directory can change, said once: a relation
between states that the primitive updates respect is respected by every such operation. -/

namespace Sys2Proof.Machine

/-- A relation between states that holds across the primitive updates of the Engine and the Directory. -/
structure Closed (R : State → State → Prop) : Prop where
  refl : ∀ s, R s s
  trans : ∀ {s t u}, R s t → R t u → R s u
  handReply : ∀ s r a b pl, R s (Machine.handReply s r a b pl)
  post : ∀ s p n, R s (Machine.post s p n)
  fifo : ∀ s p x, R s (s.setFifo p x)
  slot : ∀ s p x, R s (s.setSlot p x)
  reports : ∀ s x, R s { s with reports := x }
  region : ∀ s id r r', s.region id = some r → r'.basePage = r.basePage → r'.pageCount = r.pageCount →
    R s (s.setRegion id (some r'))
  quiet : ∀ s x, R s { s with seq := { s.seq with srRef := x } }

namespace Closed

variable {R : State → State → Prop} (h : Closed R)
include h

theorem foldl {α : Type} (f : State → α → State) (hf : ∀ s a, R s (f s a)) :
    ∀ (l : List α) (s : State), R s (l.foldl f s)
  | [], s => h.refl s
  | a :: l, s => h.trans (hf s a) (Closed.foldl f hf l (f s a))

theorem reply (s : State) (r : ReplyTo) (pl : List Byte) : R s (Machine.reply s r pl) := h.handReply _ _ _ _ _

theorem answer (s : State) (r : ReplyTo) (st : Status) : R s (Machine.answer s r st) := h.reply _ _ _

theorem postAll (s : State) (n : Notice) : R s (Machine.postAll s n) :=
  h.foldl _ (fun t p => h.post t p n) allPorts s

theorem postSupervisor (s : State) (n : Notice) : R s (Machine.postSupervisor s n) := h.post _ _ _

theorem postEntry (s : State) (p : Port) (m : SessNo) (lost : Bool) (n : Notice) :
    R s (Machine.postEntry s p m lost n) := by
  unfold Machine.postEntry
  split
  · exact h.post _ _ _
  · exact h.refl s

/-! ### The Transaction Engine -/

theorem report (s : State) (p : Port) (e : Entry) : R s (Machine.report s p e) := by
  unfold Machine.report
  split
  · exact h.reports _ _
  · exact h.refl s

theorem markQuiet (s : State) (e : Entry) : R s (Machine.markQuiet s e) := by
  unfold Machine.markQuiet
  split
  · exact h.quiet _ _
  · exact h.refl s

theorem endEntry (s : State) (p : Port) (e : Entry) (payload : Option (List Byte)) (x : Bool) :
    R s (Machine.endEntry s p e payload x) := by
  unfold Machine.endEntry
  cases payload with
  | none => exact h.trans (h.markQuiet _ _) (h.report _ _ _)
  | some y => exact h.trans (h.handReply _ _ _ _ _) (h.trans (h.markQuiet _ _) (h.report _ _ _))

theorem stopStarted (s : State) (p : Port) (o : StopOrder) (sel : Entry → Bool) :
    R s (Machine.stopStarted s p o sel) := by
  unfold Machine.stopStarted
  split
  · exact h.refl s
  · split
    · dsimp only
      split
      · exact h.trans (h.fifo _ _ _) (h.endEntry _ _ _ _ _)
      · exact h.fifo _ _ _
    · exact h.refl s

theorem cancelFrom (p : Port) (hit : Entry → Bool) (payload : Option (List Byte)) :
    ∀ (l kept : List Entry) (s : State), R s (Machine.cancelFrom p hit payload kept l s)
  | [], kept, s => by simpa [Machine.cancelFrom] using h.refl s
  | e :: l, kept, s => by
    simp only [Machine.cancelFrom]
    split
    · exact h.trans (h.fifo _ _ _) (h.trans (h.endEntry _ _ _ _ _) (Closed.cancelFrom p hit payload l _ _))
    · exact Closed.cancelFrom p hit payload l _ _

theorem cancelWaiting (s : State) (p : Port) (payload : Option (List Byte)) (sel : Entry → Bool) :
    R s (Machine.cancelWaiting s p payload sel) := h.cancelFrom _ _ _ _ _ _

theorem revokeEntries (s : State) (p : Port) (n : SessNo) (id : RegionId) : R s (Machine.revokeEntries s p n id) :=
  h.trans (h.stopStarted _ _ _ _) (h.cancelWaiting _ _ _ _)

theorem loseEntries (s : State) (p : Port) (n : SessNo) : R s (Machine.loseEntries s p n) :=
  h.trans (h.slot _ _ _) (h.trans (h.stopStarted _ _ _ _) (h.cancelWaiting _ _ _ _))

theorem retainEntries (s : State) (p : Port) : R s (Machine.retainEntries s p) :=
  h.trans (h.stopStarted _ _ _ _) (h.cancelWaiting _ _ _ _)

theorem retainAll (s : State) : R s (Machine.retainAll s) := h.foldl _ (fun t p => h.retainEntries t p) allPorts s

theorem silenceEntries (s : State) (p : Port) : R s (Machine.silenceEntries s p) :=
  h.trans (h.slot _ _ _) (h.trans (h.stopStarted _ _ _ _) (h.cancelWaiting _ _ _ _))

theorem silenceAll (s : State) : R s (Machine.silenceAll s) := h.foldl _ (fun t p => h.silenceEntries t p) allPorts s

theorem dropFrom (p : Port) : ∀ (l : List Entry) (s : State), R s (Machine.dropFrom p l s)
  | [], s => by simpa [Machine.dropFrom] using h.refl s
  | e :: l, s => by
    simp only [Machine.dropFrom]
    split
    · exact h.trans (h.fifo _ _ _) (h.trans (h.endEntry _ _ _ _ _) (Closed.dropFrom p l _))
    · exact h.refl s

theorem dropBreaches (s : State) : R s (Machine.dropBreaches s) :=
  h.foldl _ (fun t p => h.dropFrom p _ t) allPorts s

/-! ### The Lease Directory -/

theorem editRegion (s : State) (id : RegionId) (f : Region → Region)
    (hb : ∀ r, (f r).basePage = r.basePage) (hc : ∀ r, (f r).pageCount = r.pageCount) : R s (s.editRegion id f) := by
  unfold State.editRegion
  split
  · next r hr => exact h.region s id r (f r) hr (hb r) (hc r)
  · exact h.refl s

theorem postYield (id : RegionId) (d : Option Nat) (s : State) (x : Holder) :
    R s (Machine.postYield id d s x) := by
  unfold Machine.postYield
  split
  · exact h.refl s
  · exact h.postEntry _ _ _ _ _

theorem enterRecalling (s : State) (id : RegionId) (r : Region) (hr : s.region id = some r) :
    R s (Machine.enterRecalling s id r) := by
  unfold Machine.enterRecalling
  dsimp only
  refine h.trans (h.region s id r _ hr ?_ ?_) (h.foldl _ (fun t x => h.postYield _ _ t x) _ _) <;> rfl

theorem cancelRecall (s : State) (id : RegionId) (r : Region) (hr : s.region id = some r) :
    R s (Machine.cancelRecall s id r) := by
  unfold Machine.cancelRecall
  refine h.trans (h.region s id r _ hr ?_ ?_) (h.foldl _ (fun t x => h.postEntry t _ _ _ _) _ _) <;> rfl

theorem offerHead (s : State) (id : RegionId) (r : Region) (hr : s.region id = some r) :
    R s (Machine.offerHead s id r) := by
  unfold Machine.offerHead
  split
  · exact h.refl s
  · refine h.trans (h.region s id r _ hr ?_ ?_) (h.postEntry _ _ _ _ _) <;> rfl

theorem triggerPass : ∀ (fuel : Nat) (s : State) (id : RegionId), R s (Machine.triggerPass fuel s id)
  | 0, s, id => by simpa [Machine.triggerPass] using h.refl s
  | fuel + 1, s, id => by
    unfold Machine.triggerPass
    split
    · exact h.refl s
    · next r hr =>
      split
      · exact h.refl s
      · split
        · exact h.trans (h.cancelRecall s id r hr) (Closed.triggerPass fuel _ id)
        · split
          · exact h.enterRecalling s id r hr
          · split
            · exact h.trans (h.offerHead s id r hr) (Closed.triggerPass fuel _ id)
            · split
              · exact h.trans (h.offerHead s id r hr) (Closed.triggerPass fuel _ id)
              · split
                · refine h.region s id r _ hr ?_ ?_ <;> rfl
                · exact h.refl s

theorem trigger (s : State) (id : RegionId) : R s (Machine.trigger s id) := h.triggerPass _ _ _

theorem removeHolder (s : State) (id : RegionId) (x : Holder) : R s (Machine.removeHolder s id x) :=
  h.editRegion s id _ (fun _ => rfl) (fun _ => rfl)

omit h in
theorem resolve_base (r : Region) : (resolve r).basePage = r.basePage := by unfold resolve; split <;> rfl
omit h in
theorem resolve_count (r : Region) : (resolve r).pageCount = r.pageCount := by unfold resolve; split <;> rfl

theorem settleRegion (s : State) (id : RegionId) : R s (Machine.settleRegion s id) :=
  h.trans (h.editRegion s id _ resolve_base resolve_count) (h.trigger _ _)

theorem answerReleases (s : State) (x : Holder) (st : Status) : R s (Machine.answerReleases s x st) :=
  h.foldl _ (fun t q => h.answer t q st) x.releases s

theorem endRelease (s : State) (id : RegionId) (x : Holder) : R s (Machine.endRelease s id x) :=
  h.trans (h.removeHolder s id x) (h.trans (h.answerReleases _ _ _) (h.settleRegion _ _))

theorem removeRevoked (s : State) (id : RegionId) (x : Holder) : R s (Machine.removeRevoked s id x) := by
  unfold Machine.removeRevoked
  split
  · exact h.refl s
  · exact h.trans (h.removeHolder s id x)
      (h.trans (h.answerReleases _ _ _) (h.trans (h.postEntry _ _ _ _ _) (h.settleRegion _ _)))

theorem revokeHolder (id : RegionId) (s : State) (x : Holder) : R s (Machine.revokeHolder id s x) := by
  unfold Machine.revokeHolder
  dsimp only
  have e := h.editRegion s id
    (fun r => { r with holders := mapHolder x (fun y => { y with revokePending := true }) r.holders })
    (fun _ => rfl) (fun _ => rfl)
  split
  · exact h.trans e (h.trans (h.revokeEntries _ _ _ _) (h.removeRevoked _ _ _))
  · exact h.trans e (h.revokeEntries _ _ _ _)

theorem revokeAll (s : State) (id : RegionId) (r : Region) : R s (Machine.revokeAll s id r) :=
  h.foldl _ (fun t x => h.revokeHolder id t x) _ _

theorem postFenced (s : State) (id : RegionId) (p : Port) (q : List Claim) : R s (Machine.postFenced s id p q) :=
  h.trans (h.postSupervisor _ _) (h.foldl _ (fun t _ => h.postEntry t _ _ _ _) _ _)

theorem removeLost (s : State) (id : RegionId) (x : Holder) : R s (Machine.removeLost s id x) := by
  unfold Machine.removeLost
  split
  · exact h.refl s
  · next r hr =>
    split
    · refine h.trans (h.region s id r _ hr ?_ ?_) (h.postFenced _ _ _ _) <;> rfl
    · refine h.trans (h.region s id r _ hr ?_ ?_) (h.settleRegion _ _) <;> rfl

omit h in
theorem loseInRecord_range (p : Port) (n : SessNo) (r : Region) :
    (loseInRecord p n r).basePage = r.basePage ∧ (loseInRecord p n r).pageCount = r.pageCount := by
  unfold loseInRecord
  dsimp only
  split
  · exact ⟨rfl, rfl⟩
  · exact ⟨resolve_base _, resolve_count _⟩

theorem loseRegion (p : Port) (n : SessNo) (s : State) (id : RegionId) : R s (Machine.loseRegion p n s id) := by
  unfold Machine.loseRegion
  split
  · exact h.refl s
  · next r hr =>
    dsimp only
    have e := h.region s id r _ hr (loseInRecord_range p n r).1 (loseInRecord_range p n r).2
    split
    · exact h.refl s
    · split
      · split
        · exact h.trans e (h.removeLost _ _ _)
        · exact h.trans e (h.trigger _ _)
      · exact h.trans e (h.trigger _ _)

theorem loseLeases (s : State) (p : Port) (n : SessNo) : R s (Machine.loseLeases s p n) :=
  h.foldl _ (fun t i => h.loseRegion p n t i) _ _

omit h in
theorem leaveRecord_range (p : Port) (n : SessNo) (r : Region) :
    (leaveRecord p n r).basePage = r.basePage ∧ (leaveRecord p n r).pageCount = r.pageCount := by
  unfold leaveRecord
  dsimp only
  split
  · exact ⟨rfl, rfl⟩
  · exact ⟨resolve_base _, resolve_count _⟩

theorem leaveRegion (p : Port) (n : SessNo) (s : State) (id : RegionId) : R s (Machine.leaveRegion p n s id) := by
  unfold Machine.leaveRegion
  split
  · exact h.refl s
  · next r hr =>
    dsimp only
    have e := h.region s id r _ hr (leaveRecord_range p n r).1 (leaveRecord_range p n r).2
    split
    · exact h.refl s
    · exact h.trans e (h.trigger _ _)

theorem leaveLeases (s : State) (p : Port) (n : SessNo) : R s (Machine.leaveLeases s p n) :=
  h.foldl _ (fun t i => h.leaveRegion p n t i) _ _

theorem takeReport (s : State) (e : EndReport) : R s (Machine.takeReport s e) := by
  unfold Machine.takeReport
  split
  · exact h.refl s
  · split
    · split
      · split
        · exact h.removeRevoked _ _ _
        · split
          · exact h.endRelease _ _ _
          · exact h.refl s
      · split
        · exact h.removeLost _ _ _
        · exact h.refl s
    · exact h.refl s

end Closed

end Sys2Proof.Machine
end

