-- ==== Sys2Proof/Laws/Memory.lean ====
section
/-! SUPPORT. The DRAM: what a byte reads as after a write, and that every operation keeps the canonical form. -/

namespace Sys2Proof.Machine

theorem findCell_insertCell_self (a : Nat) (v : Byte) (l : List Host.Cell) : findCell a (insertCell a v l) = some v := by
  induction l with
  | nil => simp [insertCell, findCell]
  | cons c rest ih =>
    obtain ⟨b, w⟩ := c
    unfold insertCell
    split
    · simp [findCell]
    · split
      · simp [findCell]
      · next h => simp [findCell, h, ih]

theorem findCell_insertCell_ne {a c : Nat} (v : Byte) (l : List Host.Cell) (h : c ≠ a) :
    findCell c (insertCell a v l) = findCell c l := by
  induction l with
  | nil => simp [insertCell, findCell, h]
  | cons x rest ih =>
    obtain ⟨b, w⟩ := x
    unfold insertCell
    split
    · simp [findCell, h]
    · split
      · next e => subst e; simp [findCell, h]
      · by_cases hb : c = b <;> simp [findCell, hb, ih]

@[simp] theorem stored_write_self (m : Memory) (a : Nat) (v : Byte) : (m.write a v).stored a = some v :=
  findCell_insertCell_self a v m.cells

theorem stored_write_ne (m : Memory) {a c : Nat} (v : Byte) (h : c ≠ a) : (m.write a v).stored c = m.stored c :=
  findCell_insertCell_ne v m.cells h

@[simp] theorem read_write_self (m : Memory) (a : Nat) (v : Byte) : (m.write a v).read a = v := by
  simp [Memory.read]

theorem read_write_ne (m : Memory) {a c : Nat} (v : Byte) (h : c ≠ a) : (m.write a v).read c = m.read c := by
  simp only [Memory.read, stored_write_ne m v h]; rfl

/-- A run of writes leaves every byte outside it. -/
theorem read_writeRun_outside (vs : List Byte) :
    ∀ (m : Memory) (a c : Nat), c < a ∨ a + vs.length ≤ c → (m.writeRun a vs).read c = m.read c := by
  induction vs with
  | nil => intro m a c _; rfl
  | cons v rest ih =>
    intro m a c h
    simp only [List.length_cons] at h
    simp only [Memory.writeRun]
    rw [ih _ _ _ (by omega), read_write_ne m v (by omega)]

/-- A byte inside a run of writes reads as written. -/
theorem read_writeRun_inside (vs : List Byte) :
    ∀ (m : Memory) (a i : Nat) (h : i < vs.length), (m.writeRun a vs).read (a + i) = vs[i] := by
  induction vs with
  | nil => intro m a i h; exact absurd h (by simp)
  | cons v rest ih =>
    intro m a i h
    simp only [Memory.writeRun]
    cases i with
    | zero => rw [read_writeRun_outside _ _ _ _ (by omega)]; simp
    | succ j =>
      have : a + (j + 1) = a + 1 + j := by omega
      rw [this, ih _ _ _ (by simpa using h)]
      simp

/-! ### The canonical form -/

theorem cellsWf_mono {low low' : Nat} (l : List Host.Cell) (h : cellsWf low l = true) (hl : low' ≤ low) :
    cellsWf low' l = true := by
  cases l with
  | nil => rfl
  | cons c rest =>
    obtain ⟨b, w⟩ := c
    simp only [cellsWf, Bool.and_eq_true, decide_eq_true_eq] at h ⊢
    exact ⟨⟨by omega, h.1.2⟩, h.2⟩

theorem cellsWf_insertCell {a : Nat} (v : Byte) (ha : a < dramSize) :
    ∀ (l : List Host.Cell) (low : Nat), cellsWf low l = true → low ≤ a → cellsWf low (insertCell a v l) = true := by
  intro l
  induction l with
  | nil => intro low _ h; simp [insertCell, cellsWf, h, ha]
  | cons c rest ih =>
    obtain ⟨b, w⟩ := c
    intro low hw hl
    simp only [cellsWf, Bool.and_eq_true, decide_eq_true_eq] at hw
    unfold insertCell
    split
    · next h =>
      simp only [cellsWf, Bool.and_eq_true, decide_eq_true_eq]
      exact ⟨⟨hl, ha⟩, ⟨⟨h, hw.1.2⟩, hw.2⟩⟩
    · split
      · next h e =>
        subst e
        simp only [cellsWf, Bool.and_eq_true, decide_eq_true_eq]
        exact ⟨⟨hl, ha⟩, hw.2⟩
      · next h e =>
        simp only [cellsWf, Bool.and_eq_true, decide_eq_true_eq]
        exact ⟨hw.1, ih (b + 1) hw.2 (by omega)⟩

theorem wf_write (m : Memory) (a : Nat) (v : Byte) (hm : m.wf = true) (ha : a < dramSize) : (m.write a v).wf = true :=
  cellsWf_insertCell v ha m.cells 0 hm (Nat.zero_le a)

theorem wf_writeRun (vs : List Byte) :
    ∀ (m : Memory) (a : Nat), m.wf = true → a + vs.length ≤ dramSize → (m.writeRun a vs).wf = true := by
  induction vs with
  | nil => intro m a hm _; exact hm
  | cons v rest ih =>
    intro m a hm ha
    simp only [List.length_cons] at ha
    exact ih _ _ (wf_write m a v hm (by omega)) (by omega)

theorem wf_unwarranted (m : Memory) : m.unwarranted.wf = true := rfl

theorem wf_withPatterns (m : Memory) (hm : m.wf = true) : m.withPatterns.wf = true := hm

theorem cellsWf_map (f : Nat → Byte → Byte) :
    ∀ (l : List Host.Cell) (low : Nat), cellsWf low (l.map fun c => (c.1, f c.1 c.2)) = cellsWf low l := by
  intro l
  induction l with
  | nil => intro low; rfl
  | cons c rest ih => intro low; simp [cellsWf, ih]

theorem wf_losingCharge (m : Memory) (hm : m.wf = true) : m.losingCharge.wf = true := by
  have := cellsWf_map (fun a v => Config.chargeLoss (m.generation + 1) a v) m.cells 0
  exact this.trans hm

end Sys2Proof.Machine
end

