-- ==== Sys2Proof/Laws/ClosedWide.lean ====
section
/-! SUPPORT. What the operations of the Memory Sequencer, of a loss and of a warm restart can change, said once: as in
Closed.lean, for relations that also hold across any change of the Sequencer's record and of the DRAM's contents as a
whole. -/

namespace Sys2Proof.Machine

/-- A relation between states that holds across the primitive updates of every unit's shared operations. -/
structure ClosedWide (R : State → State → Prop) : Prop extends Closed R where
  seq : ∀ s q, R s (s.setSeq q)
  unwarranted : ∀ s, R s { s with memory := s.memory.unwarranted }
  losingCharge : ∀ s, R s { s with memory := s.memory.losingCharge }
  withPatterns : ∀ s, R s { s with memory := s.memory.withPatterns }
  hold : ∀ s x, R s { s with retentionHold := x }
  restart : ∀ s x, R s { s with restart := x }
  lost : ∀ s p keep, R s (closeLost s p keep)

namespace ClosedWide

variable {R : State → State → Prop} (h : ClosedWide R)
include h

/-! ### The Memory Sequencer -/

theorem markSuspect (s : State) : R s (Machine.markSuspect s) := by
  unfold Machine.markSuspect
  split
  · exact h.refl s
  · exact h.trans (h.seq _ _) (h.postAll _ _)

theorem judgeRange (s : State) (x : Range) : R s (Machine.judgeRange s x) := by
  unfold Machine.judgeRange
  split
  · exact h.trans (h.losingCharge s) (h.markSuspect _)
  · exact h.refl s

theorem startInit (s : State) : R s (Machine.startInit s) :=
  h.trans (h.unwarranted s) (h.seq _ _)

theorem abortInit (s : State) : R s (Machine.abortInit s) := h.seq _ _

theorem beginWake (s : State) (a : WakeTarget) (b : WakeFrom) (n : Nat) : R s (Machine.beginWake s a b n) := h.seq _ _

theorem wakeRetention (s : State) (x : Range) : R s (Machine.wakeRetention s x) :=
  h.trans (h.hold s false) (h.beginWake _ _ _ _)

theorem restoreDram (s : State) : R s (Machine.restoreDram s) := by
  unfold Machine.restoreDram
  split
  · exact h.wakeRetention _ _
  · split
    · exact h.wakeRetention _ _
    · exact h.refl s
  · exact h.startInit s
  all_goals exact h.refl s

theorem reachRetention (s : State) (x : Range) : R s (Machine.reachRetention s x) := by
  unfold Machine.reachRetention
  dsimp only
  have e := h.trans (h.seq s
    { s.seq with
      dram := .retention x (s.seq.retEntry.getD .refLost), banks := allClosed, debt := 0, urgent := false
      bus := .free, opTimer := none, retEntry := none }) (h.judgeRange _ x)
  split
  · exact h.trans e (h.restoreDram _)
  · exact e

theorem issueRefresh (s : State) : R s (Machine.issueRefresh s) := h.seq _ _

theorem enterSelfRefresh (s : State) (x : Range) : R s (Machine.enterSelfRefresh s x) := h.seq _ _

theorem finalStep (s : State) (x : EntryPurpose) : R s (Machine.finalStep s x) := by
  unfold Machine.finalStep
  split
  all_goals first | exact h.reachRetention _ _ | skip
  all_goals split
  all_goals first | exact h.enterSelfRefresh _ _ | exact h.reachRetention _ _ | exact h.seq _ _

theorem payDebt (s : State) (x : EntryPurpose) : R s (Machine.payDebt s x) := by
  unfold Machine.payDebt
  split
  · exact h.trans (h.seq _ _) (h.issueRefresh _)
  · exact h.finalStep _ _

theorem closeBanks (s : State) (x : EntryPurpose) : R s (Machine.closeBanks s x) := by
  unfold Machine.closeBanks
  split
  · exact h.seq _ _
  · exact h.payDebt _ _

theorem srExpiryIdle (s : State) : R s (Machine.srExpiryIdle s) := by
  unfold Machine.srExpiryIdle
  split
  · exact h.trans (h.seq _ _) (h.closeBanks _ _)
  · exact h.seq _ _

theorem grant (s : State) (p : Port) : R s (Machine.grant s p) := by
  unfold Machine.grant
  split
  · exact h.refl s
  · exact h.trans (h.fifo _ _ _) (h.seq _ _)

theorem chooseAmong (s : State) : R s (Machine.chooseAmong s) := by
  unfold Machine.chooseAmong
  split
  · exact h.refl s
  · split
    · exact h.trans (h.seq _ _) (h.issueRefresh _)
    · split
      · exact h.grant _ _
      · split
        · exact h.issueRefresh _
        · exact h.refl s

theorem arbiter (s : State) : R s (Machine.arbiter s) := by
  unfold Machine.arbiter
  split
  · exact h.trans (h.dropBreaches s) (h.chooseAmong _)
  · exact h.refl s

theorem startDue (s : State) : R s (Machine.startDue s) := by
  unfold Machine.startDue
  split
  · exact h.arbiter s
  · exact h.refl s

theorem startIdle (s : State) : R s (Machine.startIdle s) := by
  unfold Machine.startIdle
  dsimp only
  have e := h.seq s
    { s.seq with
      idle := true
      pdTimer := if s.params.pdIdle100ns = 0 then none else some (s.timer (s.params.pdIdle100ns * 100)) }
  split
  · exact e
  · split
    · exact e
    · split
      · exact h.trans e (h.srExpiryIdle _)
      · exact h.trans e (h.seq _ _)

theorem updateIdle (s : State) : R s (Machine.updateIdle s) := by
  unfold Machine.updateIdle
  split
  · split
    · exact h.refl s
    · exact h.startIdle s
  · split
    · exact h.seq _ _
    · exact h.refl s

theorem leavePowerDown (s : State) (k : PdKind) : R s (Machine.leavePowerDown s k) := h.beginWake _ _ _ _

theorem actPdCause (s : State) (k : PdKind) (c : PdCause) : R s (Machine.actPdCause s k c) := by
  unfold Machine.actPdCause
  split
  all_goals first | exact h.leavePowerDown _ _ | skip
  split
  · exact h.seq _ _
  · exact h.refl s

theorem pdCause (s : State) (c : PdCause) : R s (Machine.pdCause s c) := by
  unfold Machine.pdCause
  split
  · split
    · split
      · exact h.refl s
      · exact h.seq _ _
    · exact h.actPdCause _ _ _
  · exact h.refl s

theorem takeKept (s : State) (c : PdCause) : R s (Machine.takeKept s c) := by
  unfold Machine.takeKept
  split
  · split
    · exact h.actPdCause _ _ _
    · exact h.refl s
  · exact h.refl s

theorem headsInPowerDown (s : State) (k : PdKind) : R s (Machine.headsInPowerDown s k) := by
  unfold Machine.headsInPowerDown
  split
  · exact h.seq _ _
  · split
    · exact h.leavePowerDown _ _
    · exact h.refl s

theorem wakeForHeads (s : State) : R s (Machine.wakeForHeads s) := by
  unfold Machine.wakeForHeads
  split
  · exact h.headsInPowerDown _ _
  · split
    · exact h.beginWake _ _ _ _
    · exact h.refl s
  · split
    · exact h.seq _ _
    · exact h.refl s
  · exact h.refl s

theorem retainPowerDown (s : State) : R s (Machine.retainPowerDown s) := by
  unfold Machine.retainPowerDown
  split
  · split
    · exact h.leavePowerDown _ _
    · exact h.refl s
  · exact h.refl s

theorem settle (s : State) : R s (Machine.settle s) :=
  h.trans (h.arbiter s) (h.trans (h.updateIdle _) (h.wakeForHeads _))

theorem bandChanged (s : State) : R s (Machine.bandChanged s) := by
  unfold Machine.bandChanged
  split
  all_goals first | exact h.beginWake _ _ _ _ | exact h.seq _ _ | exact h.judgeRange _ _

theorem enterRetention (s : State) (x : RetReason) : R s (Machine.enterRetention s x) :=
  h.trans (h.hold s true) (h.seq _ _)

theorem beginRetention (s : State) (x : RetReason) : R s (Machine.beginRetention s x) := by
  unfold Machine.beginRetention
  split
  · exact h.enterRetention _ _
  · exact h.enterRetention _ _
  · exact h.enterRetention _ _
  · exact h.trans (h.enterRetention _ _) (h.retainPowerDown _)
  · exact h.trans (h.enterRetention _ _) (h.reachRetention _ _)
  · exact h.seq _ _
  · exact h.abortInit s
  · split
    · exact h.seq _ _
    · exact h.refl s
  · exact h.refl s

theorem beginRestart (s : State) (c : ResetCause) : R s (Machine.beginRestart s c) := by
  unfold Machine.beginRestart
  dsimp only
  exact h.trans (h.restart s _) (h.trans (h.beginRetention _ _)
    (h.trans (h.seq _ _) (h.trans (h.silenceAll _) (h.settle _))))

/-! ### Losses -/

theorem loseSession (s : State) (p : Port) (c : LossCause) (keep : Option Tag) :
    R s (Machine.loseSession s p c keep) := by
  unfold Machine.loseSession
  dsimp only
  have e := h.trans (h.lost s p keep)
    (h.trans (h.loseEntries _ p (s.session p).number) (h.loseLeases _ p (s.session p).number))
  split
  · exact e
  · exact h.trans e (h.postSupervisor _ _)

theorem restartIf (s : State) (due : Bool) : R s (Machine.restartIf s due) := by
  unfold Machine.restartIf
  split
  · exact h.beginRestart _ _
  · exact h.refl s

theorem loseEvent (s : State) (p : Port) (c : LossCause) : R s (Machine.loseEvent s p c) :=
  h.trans (h.loseSession _ _ _ _) (h.trans (h.settle _) (h.restartIf _ _))

/-! ### Transactions -/

theorem admitTx (s : State) (p : Port) (e : Entry) : R s (Machine.admitTx s p e) :=
  h.trans (h.arbiter s) (h.trans (h.fifo _ _ _) (h.trans (h.updateIdle _) (h.wakeForHeads _)))

theorem takeTx (s : State) (k : TxKind) (q : Request) : R s (Machine.takeTx s k q) := by
  unfold Machine.takeTx
  split
  · exact h.answer _ _ _
  · split
    · split
      · exact h.answer _ _ _
      · split
        · exact h.answer _ _ _
        · split
          · exact h.answer _ _ _
          · exact h.admitTx _ _ _
    · exact h.answer _ _ _

theorem advanceHead (s : State) (p : Port) (e : Entry) (rest : List Entry) :
    R s (Machine.advanceHead s p e rest) := by
  unfold Machine.advanceHead
  dsimp only
  split
  · exact h.trans (h.fifo _ _ _) (h.endEntry _ _ _ _ _)
  · split
    · exact h.trans (h.fifo _ _ _) (h.endEntry _ _ _ _ _)
    · exact h.fifo _ _ _

end ClosedWide

end Sys2Proof.Machine
end

