-- ==== Sys2Proof/Laws/Start.lean ====
section
/-! SUPPORT. What the start of an admitted transaction and the passing of time can change: the FIFOs, the end reports
and the Sequencer, whose DRAM state stays; and when they change nothing but the moment. -/

namespace Sys2Proof.Machine

/-- Nothing but the FIFOs, the end reports and the Sequencer differs, and the DRAM state does not. -/
structure OnlyStarts (s t : State) : Prop where
  rest : { t with ports := s.ports, reports := s.reports, seq := s.seq } = s
  link : ∀ q, t.link q = s.link q
  session : ∀ q, t.session q = s.session q
  notices : ∀ q, t.notices q = s.notices q
  slot : ∀ q, t.slot q = s.slot q
  dram : t.seq.dram = s.seq.dram

namespace OnlyStarts

theorem refl (s : State) : OnlyStarts s s := ⟨rfl, fun _ => rfl, fun _ => rfl, fun _ => rfl, fun _ => rfl, rfl⟩

theorem trans {s t u : State} (h : OnlyStarts s t) (g : OnlyStarts t u) : OnlyStarts s u where
  rest := by
    have h1 := h.rest; have g1 := g.rest
    cases s; cases t; cases u
    simp only [State.mk.injEq] at h1 g1 ⊢
    simp_all
  link q := (g.link q).trans (h.link q)
  session q := (g.session q).trans (h.session q)
  notices q := (g.notices q).trans (h.notices q)
  slot q := (g.slot q).trans (h.slot q)
  dram := g.dram.trans h.dram

theorem foldl {α : Type} (f : State → α → State) (hf : ∀ s a, OnlyStarts s (f s a)) :
    ∀ (l : List α) (s : State), OnlyStarts s (l.foldl f s)
  | [], s => refl s
  | a :: l, s => (hf s a).trans (foldl f hf l (f s a))

end OnlyStarts

theorem setFifo_onlyStarts (s : State) (p : Port) (x : List Entry) : OnlyStarts s (s.setFifo p x) :=
  ⟨rfl, fun _ => by simp, fun _ => by simp, fun _ => by simp, fun _ => by simp, rfl⟩

theorem setSeq_onlyStarts (s : State) (q : Sequencer) (h : q.dram = s.seq.dram) : OnlyStarts s (s.setSeq q) :=
  ⟨rfl, fun _ => rfl, fun _ => rfl, fun _ => rfl, fun _ => rfl, h⟩

/-- The end of an entry without a reply. -/
theorem endEntry_onlyStarts (s : State) (p : Port) (e : Entry) (x : Bool) : OnlyStarts s (endEntry s p e none x) := by
  unfold endEntry report markQuiet
  dsimp only
  split <;> split <;> exact ⟨rfl, fun _ => rfl, fun _ => rfl, fun _ => rfl, fun _ => rfl, rfl⟩

theorem dropFrom_onlyStarts (p : Port) : ∀ (l : List Entry) (s : State), OnlyStarts s (dropFrom p l s)
  | [], s => by simpa [dropFrom] using OnlyStarts.refl s
  | e :: l, s => by
    simp only [dropFrom]
    split
    · exact (setFifo_onlyStarts s p l).trans ((endEntry_onlyStarts _ p e false).trans (dropFrom_onlyStarts p l _))
    · exact OnlyStarts.refl s

theorem dropBreaches_onlyStarts (s : State) : OnlyStarts s (dropBreaches s) :=
  OnlyStarts.foldl (fun t p => dropFrom p (t.fifo p) t) (fun t p => dropFrom_onlyStarts p (t.fifo p) t) allPorts s

theorem issueRefresh_onlyStarts (s : State) : OnlyStarts s (issueRefresh s) := setSeq_onlyStarts s _ rfl

theorem grant_onlyStarts (s : State) (p : Port) : OnlyStarts s (grant s p) := by
  unfold grant
  split
  · exact OnlyStarts.refl s
  · exact (setFifo_onlyStarts s p _).trans (setSeq_onlyStarts _ _ rfl)

theorem arbiter_onlyStarts (s : State) : OnlyStarts s (arbiter s) := by
  unfold arbiter
  split
  · refine (dropBreaches_onlyStarts s).trans ?_
    generalize dropBreaches s = t
    unfold chooseAmong
    split
    · exact OnlyStarts.refl t
    · split
      · exact (setSeq_onlyStarts t { t.seq with urgent := true } rfl).trans (issueRefresh_onlyStarts _)
      · split
        · exact grant_onlyStarts t _
        · split
          · exact issueRefresh_onlyStarts t
          · exact OnlyStarts.refl t
  · exact OnlyStarts.refl s

theorem startDue_onlyStarts (s : State) : OnlyStarts s (startDue s) := by
  unfold startDue
  split
  · exact arbiter_onlyStarts s
  · exact OnlyStarts.refl s

/-! ### When nothing starts -/

theorem arbiter_of_not_ready {s : State} (h : s.seq.dram ≠ .ready) : arbiter s = s := by simp [arbiter, h]

theorem arbiter_of_busy {s : State} (h : s.seq.bus ≠ .free) : arbiter s = s := by simp [arbiter, h]

theorem startDue_of_not_ready {s : State} (h : s.seq.dram ≠ .ready) : startDue s = s := by
  simp [startDue, arbiter_of_not_ready h]

theorem startDue_of_busy {s : State} (h : s.seq.bus ≠ .free) : startDue s = s := by
  simp [startDue, arbiter_of_busy h]

theorem startDue_of_none {s : State} (h : anyEligible s = false) : startDue s = s := by simp [startDue, h]

theorem reach_of_stays {s : State} (h : startDue s = s) (d : Nat) : s.reach d = { s with now := max s.now d } := by
  simp [State.reach, h]

theorem reach_of_past {s : State} {d : Nat} (h : d ≤ s.now) : s.reach d = { s with now := max s.now d } := by
  simp [State.reach, Nat.not_lt.mpr h]

theorem reach_of_later {s : State} {d : Nat} (h : s.now < d) : s.reach d = { startDue s with now := d } := by
  simp [State.reach, h, Nat.max_eq_right (Nat.le_of_lt h)]

/-! ### What time passing keeps -/

@[simp] theorem reach_now (s : State) (d : Nat) : (s.reach d).now = max s.now d := rfl

/-- The passing of time is a start, or nothing, and then the moment. -/
theorem reach_onlyStarts (s : State) (d : Nat) : ∃ t, OnlyStarts s t ∧ s.reach d = { t with now := max s.now d } := by
  unfold State.reach
  split
  · exact ⟨_, startDue_onlyStarts s, rfl⟩
  · exact ⟨s, OnlyStarts.refl s, rfl⟩

section
variable (s : State) (d : Nat)

/-- Every field but the tables by port, the end reports, the Sequencer and the moment stays as time passes. -/
theorem reach_rest : { s.reach d with ports := s.ports, reports := s.reports, seq := s.seq, now := s.now } = s := by
  obtain ⟨t, h, e⟩ := reach_onlyStarts s d
  have g := h.rest
  rw [e]
  cases s; cases t
  simp only [State.mk.injEq] at g ⊢
  simp_all

@[simp] theorem reach_pending : (s.reach d).pending = s.pending := (congrArg State.pending (reach_rest s d) :)
@[simp] theorem reach_resetPin : (s.reach d).resetPin = s.resetPin := (congrArg State.resetPin (reach_rest s d) :)
@[simp] theorem reach_straps : (s.reach d).straps = s.straps := (congrArg State.straps (reach_rest s d) :)
@[simp] theorem reach_restart : (s.reach d).restart = s.restart := (congrArg State.restart (reach_rest s d) :)
@[simp] theorem reach_supervisor : (s.reach d).supervisor = s.supervisor :=
  (congrArg State.supervisor (reach_rest s d) :)
@[simp] theorem reach_bootCause : (s.reach d).bootCause = s.bootCause := (congrArg State.bootCause (reach_rest s d) :)
@[simp] theorem reach_params : (s.reach d).params = s.params := (congrArg State.params (reach_rest s d) :)
@[simp] theorem reach_regions : (s.reach d).regions = s.regions := (congrArg State.regions (reach_rest s d) :)
@[simp] theorem reach_retentionHold : (s.reach d).retentionHold = s.retentionHold :=
  (congrArg State.retentionHold (reach_rest s d) :)
@[simp] theorem reach_memory : (s.reach d).memory = s.memory := (congrArg State.memory (reach_rest s d) :)
@[simp] theorem reach_thermal : (s.reach d).thermal = s.thermal := (congrArg State.thermal (reach_rest s d) :)
@[simp] theorem reach_clock : (s.reach d).clock = s.clock := (congrArg State.clock (reach_rest s d) :)
@[simp] theorem reach_isRunning : (s.reach d).isRunning = s.isRunning := by simp [State.isRunning]
@[simp] theorem reach_region (i : RegionId) : (s.reach d).region i = s.region i := region_congr (reach_regions s d) i

@[simp] theorem reach_dram : (s.reach d).seq.dram = s.seq.dram := by
  obtain ⟨t, h, e⟩ := reach_onlyStarts s d
  rw [e]; exact h.dram
@[simp] theorem reach_link (q : Port) : (s.reach d).link q = s.link q := by
  obtain ⟨t, h, e⟩ := reach_onlyStarts s d
  rw [e]; exact h.link q
@[simp] theorem reach_session (q : Port) : (s.reach d).session q = s.session q := by
  obtain ⟨t, h, e⟩ := reach_onlyStarts s d
  rw [e]; exact h.session q
@[simp] theorem reach_notices (q : Port) : (s.reach d).notices q = s.notices q := by
  obtain ⟨t, h, e⟩ := reach_onlyStarts s d
  rw [e]; exact h.notices q
@[simp] theorem reach_slot (q : Port) : (s.reach d).slot q = s.slot q := by
  obtain ⟨t, h, e⟩ := reach_onlyStarts s d
  rw [e]; exact h.slot q
end

end Sys2Proof.Machine
end

