-- ==== Sys2Proof/Laws/ClosedExec.lean ====
section
/-! SUPPORT. A relation that holds across every primitive update holds across every command: the frame of `exec` as a
whole, said once. -/

namespace Sys2Proof.Machine

/-- A relation between states that holds across every primitive update of the hub. -/
structure ClosedExec (R : State → State → Prop) : Prop extends ClosedWide R where
  now : ∀ s x, R s { s with now := x }
  pin : ∀ s x, R s { s with resetPin := x }
  params : ∀ s x, R s { s with params := x }
  thermal : ∀ s x, R s { s with thermal := x }
  clock : ∀ s x, R s { s with clock := x }
  session : ∀ s p x, R s (s.setSession p x)
  opened : ∀ s p tag c l, c ≤ 16 → R s (openSession s p tag c l)
  closed : ∀ s p, R s (s.setPort p
    { s.port p with
      session := (s.session p).close, link := { s.link p with credit := 0 }, notices := (s.notices p).clear })
  tables : ∀ s p a b, R s (s.setLink p { s.link p with inFlight := a, cache := b })
  heard : ∀ s p, R s (s.setLink p { s.link p with badFrames := 0 })
  counted : ∀ s p c, R s (badFrame s p c)
  fed : ∀ s p bytes, R s (hearBytes s p bytes).1
  hunted : ∀ s p, R s (s.setLink p { s.link p with rx := Receiver.idle })
  credit : ∀ s p n, n ≤ 16 → R s (s.setLink p { s.link p with credit := n })
  sent : ∀ s p, R s (s.setLink p { s.link p with tx := none })
  resent : ∀ s p f, R s (s.setLink p { s.link p with responses := (s.link p).responses ++ [⟨.reply, f, false⟩] })
  arbitrated : ∀ s p, R s (arbitrate s p)
  refused : ∀ s p t r, R s (refuse s p t r)
  defined : ∀ s f i r, s.region i = none → defineRecord s f = .inr r → R s (s.setRegion i (some r))
  deleted : ∀ s i, R s (s.setRegion i none)
  stored : ∀ s e, e.burstStart + e.burstBytes ≤ dramSize → R s { s with memory := storeBurst s.memory e }
  powered : ∀ s g x, R s (State.powerOn s.now g x s.pending)
  blocks : ∀ s c, R s (resetBlocks s c)
  released : ∀ s x, R s (release s x)

/-- Every next state that an outcome gives stands in the relation. -/
def Leads (R : State → State → Prop) (s : State) (o : Host.Outcome State Fault Refusal) : Prop :=
  ∀ t, o = .next t → R s t

theorem Leads.next {R : State → State → Prop} {s t : State} (h : R s t) : Leads R s (.next t) := by
  intro u hu; cases hu; exact h

theorem Leads.fault {R : State → State → Prop} {s : State} (f : Fault) : Leads R s (.fault f) := by
  intro u hu; cases hu

namespace ClosedExec

variable {R : State → State → Prop} (h : ClosedExec R)
include h

theorem stay (s : State) : Leads R s (.next s) := .next (h.refl s)

theorem after {s t : State} {o : Host.Outcome State Fault Refusal} (g : R s t) (k : Leads R t o) : Leads R s o :=
  fun u hu => h.trans g (k u hu)

theorem reach (s : State) (d : Nat) : R s (s.reach d) := by
  unfold State.reach
  split
  · exact h.trans (h.startDue s) (h.now _ _)
  · exact h.now s _

theorem reachTimer (s : State) (x : Option Timer) : R s (s.reachTimer x) := by
  unfold State.reachTimer
  split
  · exact h.reach s _
  · exact h.refl s

/-! ### Frames and requests -/

theorem reportGood (s : State) (p : Port) : R s (Machine.reportGood s p) := by
  unfold Machine.reportGood
  dsimp only
  split
  · exact h.trans (h.heard s p) (h.session _ _ _)
  · exact h.heard s p
  · exact h.heard s p

theorem takeTag (s : State) (p : Port) (t : Tag) : R s (Machine.takeTag s p t) :=
  h.tables s p ((s.link p).withEntry t (.taken (s.presentSession p))) (s.link p).cache

theorem andThen {s : State} {o : Host.Outcome State Fault Refusal} {k : State → Host.Outcome State Fault Refusal}
    (ho : Leads R s o) (hk : ∀ t, Leads R t (k t)) : Leads R s (Machine.andThen o k) := by
  intro u hu
  unfold Machine.andThen at hu
  split at hu
  · next t => exact h.after (ho t rfl) (hk t) u hu
  · cases hu
  · cases hu

theorem hearFrames (p : Port) (k : State → Host.Outcome State Fault Refusal) (hk : ∀ t, Leads R t (k t)) :
    ∀ (ends : List RxEvent) (s : State), Leads R s (Machine.hearFrames p k ends s)
  | [], s => h.stay s
  | .bad c :: rest, s => by
    unfold Machine.hearFrames
    split
    · exact h.after (h.counted s p c) (ClosedExec.hearFrames p k hk rest _)
    · exact h.stay s
  | .good _ :: rest, s => by
    unfold Machine.hearFrames
    split
    · exact h.andThen (h.after (h.reportGood s p) (hk _)) (ClosedExec.hearFrames p k hk rest)
    · exact h.stay s

theorem receive (p : Port) (f : Frame) (s : State) (k : State → Host.Outcome State Fault Refusal)
    (hk : ∀ t, Leads R t (k t)) : Leads R s (Machine.receive p f s k) := by
  unfold Machine.receive
  dsimp only
  split
  · exact h.after (h.fed s p f.wire) (h.hearFrames p k hk _ _)
  · exact h.stay s

theorem request (p : Port) (k : Kind) (tb : Byte) (pl : List Byte)
    (owner : State → Request → Host.Outcome State Fault Refusal) (s : State)
    (ho : ∀ t q, Leads R t (owner t q)) : Leads R s (Machine.request p k tb pl owner s) := by
  refine h.receive _ _ _ _ fun t => ?_
  unfold routeRequest
  split
  · exact .next (h.refused _ _ _ _)
  · dsimp only
    split
    · exact .next (h.trans (h.takeTag _ _ _) (h.answer _ _ _))
    · exact h.after (h.takeTag _ _ _) (ho _ _)

theorem withFields {α : Type} (s : State) (q : Request) (reader : List Byte → Option α) (act : α → State)
    (ha : ∀ f, R s (act f)) : Leads R s (Machine.withFields s q reader act) := by
  unfold Machine.withFields
  split
  · exact .next (ha _)
  · exact .next (h.answer _ _ _)

theorem withRegion (s : State) (q : Request) (id : Byte) (act : RegionId → Region → State)
    (ha : ∀ i r, lookup s id = some (i, r) → R s (act i r)) : R s (Machine.withRegion s q id act) := by
  unfold Machine.withRegion
  split
  · next i r hr => exact ha i r hr
  · exact h.answer _ _ _

omit h in
theorem lookup_region {s : State} {id : Byte} {i : RegionId} {r : Region} (hl : lookup s id = some (i, r)) :
    s.region i = some r := by
  unfold lookup at hl
  split at hl
  · next hlt =>
    cases hr : s.region ⟨id.toNat, hlt⟩ with
    | none => simp [hr] at hl
    | some x =>
      simp only [hr, Option.map_some, Option.some.injEq, Prod.mk.injEq] at hl
      obtain ⟨rfl, rfl⟩ := hl
      exact hr
  · exact absurd hl (by simp)

/-! ### Links and sessions -/

theorem resendReply (s : State) (p : Port) (t : Tag) : R s (Machine.resendReply s p t) := by
  unfold Machine.resendReply
  dsimp only
  split
  · exact h.refused _ _ _ _
  · split
    · exact h.refused _ _ _ _
    · split
      · exact h.refl s
      · exact h.trans (h.resent s p _) (h.arbitrated _ _)

theorem openAndReply (s : State) (q : Request) (f : HelloFields) (hc : f.credit ≤ 16) :
    R s (Machine.openAndReply s q f) :=
  h.trans (h.opened s q.replyTo.port q.replyTo.tag f.credit f.label hc) (h.reply _ _ _)

theorem serveHello (s : State) (q : Request) (f : HelloFields) : R s (Machine.serveHello s q f) := by
  unfold Machine.serveHello
  dsimp only
  split
  · exact h.answer _ _ _
  · next hc =>
    split
    · exact h.trans (h.loseSession _ _ _ _) (h.trans (h.settle _)
        (h.trans (h.openAndReply _ _ _ (by omega)) (h.restartIf _ _)))
    · exact h.openAndReply _ _ _ (by omega)

theorem closeOrderly (s : State) (p : Port) (t : Tag) : R s (Machine.closeOrderly s p t) :=
  h.trans (h.tables s p (s.link p).inFlight noReplies) (h.trans (h.reply _ _ _) (h.closed _ _))

theorem serveEvict (s : State) (q : Request) (b : Byte) : R s (Machine.serveEvict s q b) := by
  unfold Machine.serveEvict
  split
  · exact h.answer _ _ _
  · split
    · exact h.answer _ _ _
    · dsimp only
      split
      · exact h.trans (h.answer _ _ _) (h.loseEvent _ _ _)
      · exact h.answer _ _ _

theorem serveSetParam (s : State) (q : Request) (f : SetParamFields) : R s (Machine.serveSetParam s q f) := by
  unfold Machine.serveSetParam
  split
  · exact h.answer _ _ _
  · next id _ =>
    split
    · refine h.trans (h.params s (s.params.store id f.value)) (h.trans ?_ (h.answer _ _ _))
      unfold storeEffect
      split
      · exact h.pdCause _ _
      · exact h.refl _
    · exact h.answer _ _ _

theorem serveGetParam (s : State) (q : Request) (b : Byte) : R s (Machine.serveGetParam s q b) := by
  unfold Machine.serveGetParam
  split
  · exact h.answer _ _ _
  · exact h.reply _ _ _

/-! ### Regions and leases -/

theorem serveDefine (s : State) (q : Request) (f : DefineFields) : R s (Machine.serveDefine s q f) := by
  unfold Machine.serveDefine
  split
  · dsimp only
    split
    · exact h.answer _ _ _
    · next hn =>
      split
      · exact h.answer _ _ _
      · next hd => exact h.trans (h.defined s f _ _ hn hd) (h.reply _ _ _)
  · exact h.answer _ _ _

omit h in
theorem alterRecord_range {r r' : Region} {f : AlterFields} (ha : alterRecord r f = .inr r') :
    r'.basePage = r.basePage ∧ r'.pageCount = r.pageCount := by
  unfold alterRecord at ha
  dsimp only at ha
  split at ha
  · split at ha
    · cases ha
    · split at ha
      · cases ha
      · cases ha; exact ⟨rfl, rfl⟩
  · cases ha

theorem serveAlter (s : State) (q : Request) (f : AlterFields) : R s (Machine.serveAlter s q f) := by
  refine h.withRegion _ _ _ _ fun i r hl => ?_
  split
  · exact h.answer _ _ _
  · next r' ha =>
    exact h.trans (h.region s i r r' (lookup_region hl) (alterRecord_range ha).1 (alterRecord_range ha).2)
      (h.answer _ _ _)

theorem serveDelete (s : State) (q : Request) (b : Byte) : R s (Machine.serveDelete s q b) := by
  refine h.withRegion _ _ _ _ fun i r hl => ?_
  split
  · exact h.trans (h.deleted s i) (h.answer _ _ _)
  · exact h.answer _ _ _

theorem revokeJoined (s : State) (i : RegionId) (x : Holder) (b : Bool) : R s (Machine.revokeJoined s i x b) := by
  unfold Machine.revokeJoined
  split
  · exact h.revokeHolder _ _ _
  · exact h.refl s

theorem grantClaim (s : State) (q : Request) (i : RegionId) (r : Region) (n : SessNo) (m : Mode)
    (hr : s.region i = some r) : R s (Machine.grantClaim s q i r n m) := by
  unfold Machine.grantClaim
  dsimp only
  have e : ∀ x, (grantRecord r x).basePage = r.basePage ∧ (grantRecord r x).pageCount = r.pageCount := by
    intro x; unfold grantRecord; split <;> exact ⟨rfl, rfl⟩
  exact h.trans (h.region s i r _ hr (e _).1 (e _).2)
    (h.trans (h.reply _ _ _) (h.trans (h.trigger _ _) (h.revokeJoined _ _ _ _)))

theorem queueClaim (s : State) (q : Request) (i : RegionId) (r : Region) (n : SessNo) (m : Mode)
    (hr : s.region i = some r) : R s (Machine.queueClaim s q i r n m) := by
  unfold Machine.queueClaim
  dsimp only
  refine h.trans (h.region s i r _ hr ?_ ?_) (h.trans (h.reply _ _ _) (h.trigger _ _)) <;> rfl

theorem serveClaim (s : State) (q : Request) (f : ClaimFields) : R s (Machine.serveClaim s q f) := by
  refine h.withRegion _ _ _ _ fun i r hl => ?_
  split
  · split
    · exact h.answer _ _ _
    · split
      · exact h.answer _ _ _
      · split
        · exact h.grantClaim _ _ _ _ _ _ (lookup_region hl)
        · exact h.queueClaim _ _ _ _ _ _ (lookup_region hl)
  · exact h.answer _ _ _

theorem yieldToJoined (s : State) (i : RegionId) (r : Region) (x : Holder) :
    R s (Machine.yieldToJoined s i r x) := by
  unfold Machine.yieldToJoined
  split
  · exact h.postYield _ _ _ _
  · exact h.refl _

theorem acceptOffer (s : State) (q : Request) (i : RegionId) (r : Region) (o : Offer) (hr : s.region i = some r) :
    R s (Machine.acceptOffer s q i r o) := by
  unfold Machine.acceptOffer
  dsimp only
  have e : ∀ x, (acceptRecord r x).basePage = r.basePage ∧ (acceptRecord r x).pageCount = r.pageCount := by
    intro x; unfold acceptRecord; split <;> exact ⟨rfl, rfl⟩
  exact h.trans (h.region s i r _ hr (e _).1 (e _).2)
    (h.trans (h.reply _ _ _) (h.trans (h.yieldToJoined _ _ _ _) (h.trans (h.trigger _ _) (h.revokeJoined _ _ _ _))))

theorem serveAccept (s : State) (q : Request) (b : Byte) : R s (Machine.serveAccept s q b) := by
  refine h.withRegion _ _ _ _ fun i r hl => ?_
  split
  · exact h.acceptOffer _ _ _ _ _ (lookup_region hl)
  · exact h.answer _ _ _

omit h in
theorem withdrawRecord_range {r r' : Region} {p : Port} {n : SessNo} (hw : withdrawRecord r p n = some r') :
    r'.basePage = r.basePage ∧ r'.pageCount = r.pageCount := by
  unfold withdrawRecord at hw
  split at hw
  · cases hw; exact ⟨rfl, rfl⟩
  · split at hw
    · cases hw; exact ⟨rfl, rfl⟩
    · cases hw

theorem serveWithdraw (s : State) (q : Request) (b : Byte) : R s (Machine.serveWithdraw s q b) := by
  refine h.withRegion _ _ _ _ fun i r hl => ?_
  split
  · next r' hw =>
    obtain ⟨n, -, hw⟩ := Option.bind_eq_some_iff.mp hw
    exact h.trans (h.region s i r r' (lookup_region hl) (withdrawRecord_range hw).1 (withdrawRecord_range hw).2)
      (h.trans (h.answer _ _ _) (h.trigger _ _))
  · exact h.answer _ _ _

theorem releaseHolder (s : State) (q : Request) (i : RegionId) (x : Holder) :
    R s (Machine.releaseHolder s q i x) := by
  have hm : R s (Machine.markRelease s i x q.replyTo.tag) := h.editRegion _ _ _ (fun _ => rfl) (fun _ => rfl)
  unfold Machine.releaseHolder
  split
  · exact hm
  · split
    · exact h.answer _ _ _
    · split
      · exact hm
      · exact h.trans (h.removeHolder _ _ _) (h.trans (h.answer _ _ _) (h.settleRegion _ _))

theorem serveRelease (s : State) (q : Request) (b : Byte) : R s (Machine.serveRelease s q b) := by
  refine h.withRegion _ _ _ _ fun i r hl => ?_
  split
  · exact h.releaseHolder _ _ _ _
  · exact h.answer _ _ _

theorem revokeHeld (s : State) (q : Request) (i : RegionId) (r : Region) (hr : s.region i = some r) :
    R s (Machine.revokeHeld s q i r) := by
  unfold Machine.revokeHeld
  dsimp only
  refine h.trans (h.region s i r _ hr ?_ ?_) (h.trans (h.answer _ _ _) (h.trans (h.revokeAll _ _ _) (h.settle _)))
    <;> rfl

theorem serveRevoke (s : State) (q : Request) (b : Byte) : R s (Machine.serveRevoke s q b) := by
  refine h.withRegion _ _ _ _ fun i r hl => ?_
  split
  all_goals first | exact h.answer _ _ _ | exact h.revokeHeld _ _ _ _ (lookup_region hl)

theorem serveUnfence (s : State) (q : Request) (b : Byte) : R s (Machine.serveUnfence s q b) := by
  refine h.withRegion _ _ _ _ fun i r hl => ?_
  split
  · refine h.trans (h.region s i r _ (lookup_region hl) ?_ ?_) (h.trans (h.reply _ _ _) (h.trigger _ _)) <;> rfl
  · exact h.answer _ _ _

/-! ### Transactions and recovery -/

theorem serveTx (s : State) (k : TxKind) (q : Request) : Leads R s (Machine.serveTx s k q) := by
  unfold Machine.serveTx
  split
  · exact .next (h.takeTx _ _ _)
  · split
    · exact .next (h.slot _ _ _)
    · exact .fault _

theorem serveReinit (s : State) (q : Request) : R s (Machine.serveReinit s q) := by
  unfold Machine.serveReinit
  split
  · next t ht =>
    refine h.trans ?_ (h.seq _ _)
    unfold acceptReinit at ht
    split at ht
    all_goals try cases ht
    · split at ht
      · cases ht; exact h.startInit _
      · cases ht
    · split at ht
      · split at ht
        · cases ht; exact h.seq _ _
        · cases ht; exact h.startInit _
      · cases ht
    · split at ht
      · split at ht
        · cases ht; exact h.seq _ _
        · cases ht; exact h.seq _ _
      · cases ht
  · exact h.answer _ _ _

theorem serveResume (s : State) (q : Request) : R s (Machine.serveResume s q) := by
  unfold Machine.serveResume
  split
  · exact h.answer _ _ _
  · dsimp only
    split
    · exact h.trans (h.answer _ _ _) (h.wakeRetention _ _)
    · exact h.answer _ _ _

theorem serveClearSuspect (s : State) (q : Request) : R s (Machine.serveClearSuspect s q) := by
  unfold Machine.serveClearSuspect
  split
  · exact h.trans (h.seq _ _) (h.trans (h.answer _ _ _) (h.postAll _ _))
  · exact h.answer _ _ _

/-! ### Events -/

theorem endBurst (s : State) : Leads R s (Machine.endBurst s) := by
  unfold Machine.endBurst
  split
  · split
    · exact h.stay s
    · next e _ _ =>
      split
      · exact .fault _
      · exact .next (h.trans (h.stored s e (by omega))
          (h.trans (h.seq _ _) (h.trans (h.advanceHead _ _ _ _) (h.settle _))))
  · exact h.stay s
  · exact h.stay s

theorem endOp (s : State) : R s (Machine.endOp s) := h.trans (h.reachTimer _ _) (h.seq _ _)

theorem raiseDebt (s : State) : R s (Machine.raiseDebt s) := by
  unfold Machine.raiseDebt
  split
  · unfold overrun
    exact h.trans (h.losingCharge s) (h.trans (h.seq _ _) (h.trans (h.postSupervisor _ _) (h.markSuspect _)))
  · exact h.seq _ _

theorem tickDebt (s : State) : R s (Machine.tickDebt s) := by
  unfold Machine.tickDebt
  split
  · exact h.raiseDebt s
  · exact h.raiseDebt s
  · refine h.trans (h.raiseDebt s) ?_
    unfold tickPowerDown
    split
    · exact h.pdCause _ _
    · exact h.refl _
  all_goals exact h.refl s

theorem announceBand (s : State) : R s (Machine.announceBand s) := by
  unfold Machine.announceBand
  dsimp only
  refine h.trans (h.postAll s (.thermal s.thermal.band s.thermal.reading))
    (h.trans ?_ (h.trans (h.bandChanged _) (h.settle _)))
  split
  · exact h.postSupervisor _ _
  · exact h.refl _

theorem takeSample (s : State) (r : Option Int) : R s (Machine.takeSample s r) := by
  unfold Machine.takeSample
  dsimp only
  split
  · exact h.thermal s _
  · exact h.trans (h.thermal s _) (h.announceBand _)

theorem restoreReference (s : State) : R s (Machine.restoreReference s) := by
  unfold Machine.restoreReference
  dsimp only
  refine h.trans (h.clock s { s.clock with ref := .locked, lockTimer := none }) (h.trans (h.postAll _ .refRestored) (h.trans ?_ (h.settle _)))
  split
  · exact h.restoreDram _
  · exact h.refl _

theorem failReinit (s : State) : R s (Machine.failReinit s) := by
  unfold Machine.failReinit
  split
  · exact h.trans (h.seq _ _) (h.answer _ _ _)
  · exact h.refl _

theorem loseReference (s : State) : R s (Machine.loseReference s) := by
  unfold Machine.loseReference
  dsimp only
  have e : R s (if entersRetention s.seq.dram then Machine.retainAll { s with retentionHold := true } else s) := by
    split
    · exact h.trans (h.hold s true) (h.retainAll _)
    · exact h.refl s
  exact h.trans e (h.trans (h.beginRetention _ _)
    (h.trans (h.failReinit _) (h.trans (h.settle _) (h.postAll _ _))))

theorem initSucceeds (s : State) : R s (Machine.initSucceeds s) := by
  unfold Machine.initSucceeds
  dsimp only
  have e : R s { s with memory := s.memory.withPatterns, seq := { s.seq with
      dram := .ready, banks := allClosed, debt := 0, condition := .fresh, srRef := some s.now, reinit := none } } :=
    h.trans (h.withPatterns s) (h.seq _ _)
  split
  · exact h.trans e (h.trans (h.postAll _ _) (h.trans (h.answer _ _ _) (h.settle _)))
  · exact h.trans e (h.settle _)

theorem initFails (s : State) : R s (Machine.initFails s) := by
  unfold Machine.initFails
  dsimp only
  have e : R s { s with memory := s.memory.withPatterns, seq := { s.seq with dram := .failed, reinit := none } } :=
    h.trans (h.withPatterns s) (h.seq _ _)
  split
  · exact h.trans e (h.trans (h.postSupervisor _ _) (h.answer _ _ _))
  · exact h.trans e (h.postSupervisor _ _)

/-- **The frame of a command**: a relation that holds across every primitive update holds from the state before a
command to any next state it answers. -/
theorem exec (c : Instr) (s : State) : Leads R s (Machine.exec c s) := by
  cases c <;> dsimp only [Machine.exec]
  case powerOn x => exact .next (h.powered s _ x)
  case resetAsserted =>
    unfold execResetAsserted
    split
    · exact h.stay s
    · dsimp only
      split
      · exact .next (h.trans (h.pin s .low) (h.beginRestart _ _))
      · exact .next (h.trans (h.pin s .low) (h.restart _ _))
      · exact .next (h.pin s .low)
  case warmRestartReset x =>
    unfold execWarmRestartReset
    split
    · split
      · exact h.stay s
      · dsimp only
        split
        · exact .next (h.trans (h.blocks _ _) (h.released _ _))
        · exact .next (h.blocks _ _)
    · exact h.stay s
    · exact h.stay s
  case resetReleased x =>
    unfold execResetReleased
    split
    · exact h.stay s
    · dsimp only
      split
      · exact .next (h.trans (h.pin s .high) (h.released _ _))
      · exact .next (h.pin s .high)
      · exact .next (h.pin s .high)
  case gapTimeout p bs =>
    unfold execGapTimeout
    dsimp only
    split
    · refine h.after (h.fed s p bs) (h.andThen (h.hearFrames p _ (fun t => h.stay t) _ _) fun t => ?_)
      unfold expireGap
      split
      · exact .next (h.trans (h.reachTimer _ _) (h.trans (h.hunted _ _) (h.counted _ _ _)))
      · exact h.stay t
    · exact h.stay s
  case badFrame p bs =>
    unfold execBadFrame
    dsimp only
    split
    · exact h.after (h.fed s p bs) (h.hearFrames p _ (fun t => h.stay t) _ _)
    · exact h.stay s
  case badKindFrame p k tb pl =>
    unfold execBadKindFrame
    split
    · exact h.stay s
    · exact h.receive _ _ _ _ fun t => .next (h.refused _ _ _ _)
  case credit p tb pl =>
    refine h.receive _ _ _ _ fun t => ?_
    split
    · split
      · exact .next (h.trans (h.credit _ _ _ (Nat.min_le_left _ _)) (h.arbitrated _ _))
      · exact h.stay t
    · exact h.stay t
  case resend p tb pl =>
    refine h.receive _ _ _ _ fun t => ?_
    split
    · exact .next (h.resendReply _ _ _)
    · exact h.stay t
  case hello => exact h.request _ _ _ _ _ _ fun t q => h.withFields _ _ _ _ fun f => h.serveHello _ _ _
  case leave => exact h.request _ _ _ _ _ _ fun t q => h.withFields _ _ _ _ fun f => h.session _ _ _
  case ping => exact h.request _ _ _ _ _ _ fun t q => h.withFields _ _ _ _ fun f => h.answer _ _ _
  case status => exact h.request _ _ _ _ _ _ fun t q => h.withFields _ _ _ _ fun f => h.reply _ _ _
  case setParam => exact h.request _ _ _ _ _ _ fun t q => h.withFields _ _ _ _ fun f => h.serveSetParam _ _ _
  case getParam => exact h.request _ _ _ _ _ _ fun t q => h.withFields _ _ _ _ fun f => h.serveGetParam _ _ _
  case defineRegion => exact h.request _ _ _ _ _ _ fun t q => h.withFields _ _ _ _ fun f => h.serveDefine _ _ _
  case alterRegion => exact h.request _ _ _ _ _ _ fun t q => h.withFields _ _ _ _ fun f => h.serveAlter _ _ _
  case deleteRegion => exact h.request _ _ _ _ _ _ fun t q => h.withFields _ _ _ _ fun f => h.serveDelete _ _ _
  case queryRegion =>
    exact h.request _ _ _ _ _ _ fun t q => h.withFields _ _ _ _ fun f =>
      h.withRegion _ _ _ _ fun _ _ _ => h.reply _ _ _
  case claim => exact h.request _ _ _ _ _ _ fun t q => h.withFields _ _ _ _ fun f => h.serveClaim _ _ _
  case accept => exact h.request _ _ _ _ _ _ fun t q => h.withFields _ _ _ _ fun f => h.serveAccept _ _ _
  case withdraw => exact h.request _ _ _ _ _ _ fun t q => h.withFields _ _ _ _ fun f => h.serveWithdraw _ _ _
  case release => exact h.request _ _ _ _ _ _ fun t q => h.withFields _ _ _ _ fun f => h.serveRelease _ _ _
  case revoke => exact h.request _ _ _ _ _ _ fun t q => h.withFields _ _ _ _ fun f => h.serveRevoke _ _ _
  case unfence => exact h.request _ _ _ _ _ _ fun t q => h.withFields _ _ _ _ fun f => h.serveUnfence _ _ _
  case read => exact h.request _ _ _ _ _ _ fun t q => h.serveTx _ _ _
  case write => exact h.request _ _ _ _ _ _ fun t q => h.serveTx _ _ _
  case fill => exact h.request _ _ _ _ _ _ fun t q => h.serveTx _ _ _
  case reinit => exact h.request _ _ _ _ _ _ fun t q => h.withFields _ _ _ _ fun f => h.serveReinit _ _
  case resume => exact h.request _ _ _ _ _ _ fun t q => h.withFields _ _ _ _ fun f => h.serveResume _ _
  case clearSuspect => exact h.request _ _ _ _ _ _ fun t q => h.withFields _ _ _ _ fun f => h.serveClearSuspect _ _
  case restart => exact h.request _ _ _ _ _ _ fun t q => h.withFields _ _ _ _ fun f => h.handReply _ _ _ _ _
  case evictPort => exact h.request _ _ _ _ _ _ fun t q => h.withFields _ _ _ _ fun f => h.serveEvict _ _ _
  case frameTransmitted p =>
    unfold execFrameTransmitted
    split
    · exact h.stay s
    · dsimp only
      split
      · exact .next (h.trans (h.sent s p) (h.beginRestart _ _))
      · exact .next (h.trans (h.sent s p) (h.arbitrated _ _))
  case silenceTimeout p =>
    unfold execSilenceTimeout
    split
    · split
      · exact .next (h.trans (h.reach s _) (h.loseEvent _ _ _))
      · exact h.stay s
    · exact h.stay s
  case leaveDrainEnd p =>
    unfold execLeaveDrainEnd
    split
    · split
      · exact .next (h.trans (h.leaveLeases _ _ _) (h.closeOrderly _ _ _))
      · exact h.stay s
    · exact h.stay s
    · exact h.stay s
  case offerDeadlineExpiry i =>
    unfold execOfferDeadlineExpiry
    split
    · split
      · exact h.stay s
      · next r hr =>
        split
        · exact h.stay s
        · next o _ =>
          exact .next (h.trans (h.reach s o.deadline)
            (h.trans (h.region _ i r { r with offer := none } ((reach_region s _ i).trans hr) rfl rfl)
              (h.trans (h.postEntry _ _ _ _ _) (h.trigger _ _))))
    · exact h.stay s
  case recallDeadlineExpiry i =>
    unfold execRecallDeadlineExpiry
    split
    · split
      · exact h.stay s
      · next r hr =>
        split
        · exact h.stay s
        · next d _ =>
          exact .next (h.trans (h.reach s d)
            (h.trans (h.region _ i r { r with recallDeadline := none } ((reach_region s _ i).trans hr) rfl rfl)
              (h.trans (h.revokeAll _ _ _) (h.settle _))))
    · exact h.stay s
  case transactionEndReport =>
    unfold execTransactionEndReport
    split
    · split
      · exact h.stay s
      · exact .next (h.trans (h.reports s _) (h.takeReport _ _))
    · exact h.stay s
  case admissionSlotRelease p =>
    unfold execAdmissionSlotRelease
    split
    · split
      · exact h.stay s
      · split
        · exact .next (h.trans (h.slot _ _ _) (h.takeTx _ _ _))
        · exact h.stay s
    · exact h.stay s
  case burstComplete => exact h.after (h.startDue s) (h.endBurst _)
  case refreshComplete =>
    unfold execRefreshComplete
    split
    · dsimp only
      have e := h.trans (h.endOp s) (h.seq (Machine.endOp s)
        { (Machine.endOp s).seq with
          bus := .free, urgent := (Machine.endOp s).seq.urgent && decide (0 < (Machine.endOp s).seq.debt) })
      split
      · exact .next (h.trans e (h.trans (h.payDebt _ _) (h.settle _)))
      · exact .next (h.trans e (h.startInit _))
      · exact .next (h.trans e (h.settle _))
    · exact h.stay s
  case refreshTick =>
    unfold execRefreshTick
    exact .next (h.trans (h.reach s _) (h.trans (h.seq _ _) (h.trans (h.tickDebt _) (h.settle _))))
  case pdTimerExpiry =>
    unfold execPdTimerExpiry
    split
    · split
      · exact .next (h.trans (h.reach s _) (h.trans (h.seq _ _) (h.settle _)))
      · exact h.stay s
    · exact h.stay s
  case srTimerExpiry =>
    unfold execSrTimerExpiry
    split
    · dsimp only
      split
      · exact .next (h.trans (h.reach s _) (h.trans (h.srExpiryIdle _) (h.settle _)))
      · exact .next (h.trans (h.reach s _) (h.trans (h.seq _ _) (h.pdCause _ _)))
      · exact h.stay s
    · exact h.stay s
  case pdResidencyEnd =>
    unfold execPdResidencyEnd
    split
    · next x _ =>
      dsimp only
      have e := h.trans (h.reach s x.deadline)
        (h.seq _ { (s.reach x.deadline).seq with residency := none, kept := [] })
      split
      · exact .next (h.trans e (h.seq _ _))
      · exact .next (h.trans e (h.trans (h.foldl _ (fun t c => h.takeKept t c) _ _)
          (h.trans (h.retainPowerDown _) (h.settle _))))
    · exact h.stay s
  case pdExitComplete =>
    unfold execPdExitComplete
    split
    · exact .next (h.trans (h.endOp s) (h.trans (h.seq _ _) (h.settle _)))
    · exact .next (h.trans (h.endOp s) (h.trans (h.closeBanks _ _) (h.settle _)))
    · exact .next (h.trans (h.endOp s) (h.startInit _))
    · exact h.stay s
  case bankCloseComplete =>
    unfold execBankCloseComplete
    split
    · exact .next (h.trans (h.endOp s) (h.trans (h.seq _ _) (h.trans (h.payDebt _ _) (h.settle _))))
    · exact h.stay s
  case wakeComplete =>
    unfold execWakeComplete
    have w : ∀ t, R t (wakeReady t) := fun t => h.trans (h.seq _ _) (h.settle _)
    split
    · exact .next (h.trans (h.endOp s) (w _))
    · split
      · exact .next (h.trans (h.endOp s) (w _))
      · exact .next (h.trans (h.endOp s) (h.trans (h.payDebt _ _) (h.settle _)))
    · exact .next (h.trans (h.endOp s) (h.trans (h.seq _ _) (w _)))
    · exact h.stay s
  case resetHoldComplete =>
    unfold execResetHoldComplete
    split
    · exact .next (h.seq _ _)
    · exact h.stay s
  case modeSettingComplete =>
    unfold execModeSettingComplete
    split
    · exact .next (h.seq _ _)
    · exact h.stay s
  case trainingComplete a b =>
    unfold execTrainingComplete
    split
    · split
      · exact .next (h.initSucceeds s)
      · exact .next (h.initFails s)
    · exact h.stay s
  case thermalSample r =>
    unfold execThermalSample
    split
    · exact h.stay s
    · split
      · exact h.stay s
      · exact .next (h.trans (h.reach s _) (h.takeSample _ _))
  case lossWindowExpiry =>
    unfold execLossWindowExpiry
    dsimp only
    have e := h.trans (h.reach s (s.clock.lastEdge + 4000))
      (h.clock _ { (s.reach (s.clock.lastEdge + 4000)).clock with ref := .lost, lockTimer := none })
    split
    · exact h.stay s
    · exact .next e
    · exact .next (h.trans e (h.loseReference _))
  case refEdge =>
    unfold execRefEdge
    split
    all_goals exact .next (h.clock s _)
  case lockTimerExpiry =>
    unfold execLockTimerExpiry
    split
    · exact .next (h.trans (h.reach s _) (h.restoreReference _))
    · exact h.stay s
  case retentionDrainEnd =>
    unfold execRetentionDrainEnd
    split
    · exact .next (h.trans (h.closeBanks _ _) (h.settle _))
    · exact h.stay s

/-- The frame of a step: as of a command, and of an idle step. -/
theorem step (hq : ∀ s x, R s { s with pending := x }) (s : State) : Leads R s (Machine.step s) := by
  unfold Machine.step
  split
  · exact .next (h.reach s _)
  · exact h.after (hq s _) (h.exec _ _)

end ClosedExec

end Sys2Proof.Machine
end

