-- ==== Sys2Proof/Laws/PerInstr.lean ====
section
/-! SUPPORT. The payload limit, stated of each command: the payload of a well-formed frame has at most 320 bytes (R5). -/

namespace Sys2Proof.Laws.PayloadLimit

open Sys2Proof

/-- The payload of the frame a command is; a command that is no whole frame has none. -/
def payloadOf : Instr → List Byte
  | .badKindFrame _ _ _ payload => payload
  | .credit _ _ payload | .resend _ _ payload | .hello _ _ payload | .leave _ _ payload | .ping _ _ payload
  | .status _ _ payload | .setParam _ _ payload | .getParam _ _ payload | .defineRegion _ _ payload
  | .alterRegion _ _ payload | .deleteRegion _ _ payload | .queryRegion _ _ payload | .claim _ _ payload
  | .accept _ _ payload | .withdraw _ _ payload | .release _ _ payload | .revoke _ _ payload
  | .unfence _ _ payload | .read _ _ payload | .write _ _ payload | .fill _ _ payload | .reinit _ _ payload
  | .resume _ _ payload | .clearSuspect _ _ payload | .restart _ _ payload | .evictPort _ _ payload => payload
  | _ => []

/-- R5 of a command: well formed, it carries at most 320 bytes of payload. -/
def Statement (i : Instr) : Prop := i.wellFormed = true → (payloadOf i).length ≤ 320

theorem powerOn (straps : Straps) : Statement (.powerOn straps) := fun _ => Nat.zero_le 320
theorem resetAsserted : Statement .resetAsserted := fun _ => Nat.zero_le 320
theorem warmRestartReset (straps : Straps) : Statement (.warmRestartReset straps) := fun _ => Nat.zero_le 320
theorem resetReleased (straps : Straps) : Statement (.resetReleased straps) := fun _ => Nat.zero_le 320
theorem gapTimeout (port : Port) (bytes : List Byte) : Statement (.gapTimeout port bytes) := fun _ => Nat.zero_le 320
theorem badFrame (port : Port) (bytes : List Byte) : Statement (.badFrame port bytes) := fun _ => Nat.zero_le 320
theorem badKindFrame (port : Port) (kind tagByte : Byte) (payload : List Byte) : Statement (.badKindFrame port kind tagByte payload) := fun h => by
  simp only [Instr.wellFormed, payloadFits, Bool.and_eq_true, decide_eq_true_eq] at h
  exact h.1
theorem credit (port : Port) (tagByte : Byte) (payload : List Byte) : Statement (.credit port tagByte payload) :=
  fun h => of_decide_eq_true h
theorem resend (port : Port) (tagByte : Byte) (payload : List Byte) : Statement (.resend port tagByte payload) :=
  fun h => of_decide_eq_true h
theorem hello (port : Port) (tagByte : Byte) (payload : List Byte) : Statement (.hello port tagByte payload) :=
  fun h => of_decide_eq_true h
theorem leave (port : Port) (tagByte : Byte) (payload : List Byte) : Statement (.leave port tagByte payload) :=
  fun h => of_decide_eq_true h
theorem ping (port : Port) (tagByte : Byte) (payload : List Byte) : Statement (.ping port tagByte payload) :=
  fun h => of_decide_eq_true h
theorem status (port : Port) (tagByte : Byte) (payload : List Byte) : Statement (.status port tagByte payload) :=
  fun h => of_decide_eq_true h
theorem setParam (port : Port) (tagByte : Byte) (payload : List Byte) : Statement (.setParam port tagByte payload) :=
  fun h => of_decide_eq_true h
theorem getParam (port : Port) (tagByte : Byte) (payload : List Byte) : Statement (.getParam port tagByte payload) :=
  fun h => of_decide_eq_true h
theorem defineRegion (port : Port) (tagByte : Byte) (payload : List Byte) : Statement (.defineRegion port tagByte payload) :=
  fun h => of_decide_eq_true h
theorem alterRegion (port : Port) (tagByte : Byte) (payload : List Byte) : Statement (.alterRegion port tagByte payload) :=
  fun h => of_decide_eq_true h
theorem deleteRegion (port : Port) (tagByte : Byte) (payload : List Byte) : Statement (.deleteRegion port tagByte payload) :=
  fun h => of_decide_eq_true h
theorem queryRegion (port : Port) (tagByte : Byte) (payload : List Byte) : Statement (.queryRegion port tagByte payload) :=
  fun h => of_decide_eq_true h
theorem claim (port : Port) (tagByte : Byte) (payload : List Byte) : Statement (.claim port tagByte payload) :=
  fun h => of_decide_eq_true h
theorem accept (port : Port) (tagByte : Byte) (payload : List Byte) : Statement (.accept port tagByte payload) :=
  fun h => of_decide_eq_true h
theorem withdraw (port : Port) (tagByte : Byte) (payload : List Byte) : Statement (.withdraw port tagByte payload) :=
  fun h => of_decide_eq_true h
theorem release (port : Port) (tagByte : Byte) (payload : List Byte) : Statement (.release port tagByte payload) :=
  fun h => of_decide_eq_true h
theorem revoke (port : Port) (tagByte : Byte) (payload : List Byte) : Statement (.revoke port tagByte payload) :=
  fun h => of_decide_eq_true h
theorem unfence (port : Port) (tagByte : Byte) (payload : List Byte) : Statement (.unfence port tagByte payload) :=
  fun h => of_decide_eq_true h
theorem read (port : Port) (tagByte : Byte) (payload : List Byte) : Statement (.read port tagByte payload) :=
  fun h => of_decide_eq_true h
theorem write (port : Port) (tagByte : Byte) (payload : List Byte) : Statement (.write port tagByte payload) :=
  fun h => of_decide_eq_true h
theorem fill (port : Port) (tagByte : Byte) (payload : List Byte) : Statement (.fill port tagByte payload) :=
  fun h => of_decide_eq_true h
theorem reinit (port : Port) (tagByte : Byte) (payload : List Byte) : Statement (.reinit port tagByte payload) :=
  fun h => of_decide_eq_true h
theorem resume (port : Port) (tagByte : Byte) (payload : List Byte) : Statement (.resume port tagByte payload) :=
  fun h => of_decide_eq_true h
theorem clearSuspect (port : Port) (tagByte : Byte) (payload : List Byte) : Statement (.clearSuspect port tagByte payload) :=
  fun h => of_decide_eq_true h
theorem restart (port : Port) (tagByte : Byte) (payload : List Byte) : Statement (.restart port tagByte payload) :=
  fun h => of_decide_eq_true h
theorem evictPort (port : Port) (tagByte : Byte) (payload : List Byte) : Statement (.evictPort port tagByte payload) :=
  fun h => of_decide_eq_true h
theorem frameTransmitted (port : Port) : Statement (.frameTransmitted port) := fun _ => Nat.zero_le 320
theorem silenceTimeout (port : Port) : Statement (.silenceTimeout port) := fun _ => Nat.zero_le 320
theorem leaveDrainEnd (port : Port) : Statement (.leaveDrainEnd port) := fun _ => Nat.zero_le 320
theorem offerDeadlineExpiry (region : RegionId) : Statement (.offerDeadlineExpiry region) := fun _ => Nat.zero_le 320
theorem recallDeadlineExpiry (region : RegionId) : Statement (.recallDeadlineExpiry region) :=
  fun _ => Nat.zero_le 320
theorem transactionEndReport : Statement .transactionEndReport := fun _ => Nat.zero_le 320
theorem admissionSlotRelease (port : Port) : Statement (.admissionSlotRelease port) := fun _ => Nat.zero_le 320
theorem burstComplete : Statement .burstComplete := fun _ => Nat.zero_le 320
theorem refreshComplete : Statement .refreshComplete := fun _ => Nat.zero_le 320
theorem refreshTick : Statement .refreshTick := fun _ => Nat.zero_le 320
theorem pdTimerExpiry : Statement .pdTimerExpiry := fun _ => Nat.zero_le 320
theorem srTimerExpiry : Statement .srTimerExpiry := fun _ => Nat.zero_le 320
theorem pdResidencyEnd : Statement .pdResidencyEnd := fun _ => Nat.zero_le 320
theorem pdExitComplete : Statement .pdExitComplete := fun _ => Nat.zero_le 320
theorem bankCloseComplete : Statement .bankCloseComplete := fun _ => Nat.zero_le 320
theorem wakeComplete : Statement .wakeComplete := fun _ => Nat.zero_le 320
theorem resetHoldComplete : Statement .resetHoldComplete := fun _ => Nat.zero_le 320
theorem modeSettingComplete : Statement .modeSettingComplete := fun _ => Nat.zero_le 320
theorem trainingComplete (lane0 lane1 : Bool) : Statement (.trainingComplete lane0 lane1) := fun _ => Nat.zero_le 320
theorem thermalSample (result : Option Int) : Statement (.thermalSample result) := fun _ => Nat.zero_le 320
theorem lossWindowExpiry : Statement .lossWindowExpiry := fun _ => Nat.zero_le 320
theorem refEdge : Statement .refEdge := fun _ => Nat.zero_le 320
theorem lockTimerExpiry : Statement .lockTimerExpiry := fun _ => Nat.zero_le 320
theorem retentionDrainEnd : Statement .retentionDrainEnd := fun _ => Nat.zero_le 320

end Sys2Proof.Laws.PayloadLimit
end

