-- ==== Sys2Proof/Laws/Requests.lean ====
section
/-! SUPPORT. Requests on their way to their owners: which owner an admitted request reaches, and what it means that
the command answers. -/

namespace Sys2Proof.Machine

/-- A reply under a state with the tag taken is a reply under the state before. -/
theorem Answered.forgetTag {u v t : State} {r : ReplyTo} {b : Bool} {pl : List Byte} {x : InFlight}
    (h : Answered u t r b pl) (ho : OffPorts v u) (hn : ∀ q, q ≠ r.port → u.port q = v.port q)
    (hl : u.link r.port = { v.link r.port with inFlight := (v.link r.port).withEntry r.tag x })
    (hk : OffLink v u r.port) : Answered v t r b pl := by
  refine ⟨ho.trans h.rest, fun q hq => (h.others q hq).trans (hn q hq), ?_, ?_, ?_, ?_, h.freed, ?_, h.cached, ?_, ?_⟩
  · obtain ⟨a, b, c, d⟩ := h.port
    obtain ⟨a', b', c', d'⟩ := hk
    exact ⟨a.trans a', b.trans b', c.trans c', d.trans d'⟩
  · rw [h.rx, hl]
  · rw [h.badFrames, hl]
  · rw [h.credit, hl]
  · intro w hw
    rw [h.otherTags w hw, hl]
    exact withEntry_ne _ _ hw
  · intro w hw
    rw [h.otherSlots w hw, hl]; rfl
  · rw [h.sent]; simp [outgoing, hl]

/-- The state in which an admitted request reaches its owner. -/
abbrev afterTake (s : State) (p : Port) (tb : Byte) : State := takeTag (reportGood s p) p (tagOf tb)

/-- A command that hands over a reply to its own request and does nothing else. -/
theorem answers_of_reply (c : Instr) (s : State) (p : Port) (k : Kind) (tb : Byte) (pl : List Byte)
    (h : exec c s = .next (reply (afterTake s p tb) (replyFor s p k tb) pl)) :
    Answers c s (reportGood s p) (replyFor s p k tb) pl :=
  ⟨_, h, (answered_handReply _ _ false false pl (accepts_taken s p k tb)).beforeTake⟩

theorem answersStatus_of_answer (c : Instr) (s : State) (p : Port) (k : Kind) (tb : Byte) (st : Status)
    (h : exec c s = .next (answer (afterTake s p tb) (replyFor s p k tb) st)) :
    AnswersStatus c s (replyFor s p k tb) st := answers_of_reply c s p k tb _ h

/-- A command that changes something outside the tables by port and then hands over its reply. -/
theorem answers_of_update (c : Instr) (s : State) (p : Port) (k : Kind) (tb : Byte) (pl : List Byte) (f : State → State)
    (hports : ∀ u, (f u).ports = u.ports) (hf : OffPorts (f (reportGood s p)) (f (afterTake s p tb)))
    (h : exec c s = .next (reply (f (afterTake s p tb)) (replyFor s p k tb) pl)) :
    Answers c s (f (reportGood s p)) (replyFor s p k tb) pl := by
  have hp : ∀ u q, (f u).port q = u.port q := fun u q => port_congr (hports u) q
  have hl : ∀ u q, (f u).link q = u.link q := fun u q => by unfold State.link; rw [hp]
  have hs : ∀ u q, (f u).session q = u.session q := fun u q => by unfold State.session; rw [hp]
  have ha : acceptsReply (f (afterTake s p tb)) (replyFor s p k tb) = true := by
    have := accepts_taken s p k tb
    unfold acceptsReply State.presentSession at this ⊢
    rw [hl, hs]; exact this
  refine ⟨_, h, (answered_handReply _ _ false false pl ha).forgetTag
    (x := .taken ((reportGood s p).presentSession p)) hf ?_ ?_ ?_⟩
  · intro q hq
    rw [hp, hp]; exact port_setPort_ne _ _ hq
  · simp only [replyFor]; rw [hl, hl]; simp [afterTake, takeTag]
  · simp only [OffLink, replyFor, State.session, State.notices, State.fifo, State.slot, hp]
    have : (afterTake s p tb).port p = { (reportGood s p).port p with link := ((afterTake s p tb).port p).link } := by
      simp [afterTake, takeTag, State.setLink]
    rw [this]; exact ⟨rfl, rfl, rfl, rfl⟩

theorem afterTake_offPorts (s p tb) : OffPorts s (afterTake s p tb) :=
  (reportGood_offPorts s p).trans (takeTag_offPorts _ _ _)

@[simp] theorem afterTake_region (s p tb i) : (afterTake s p tb).region i = s.region i :=
  (afterTake_offPorts s p tb).region i
@[simp] theorem afterTake_params (s p tb) : (afterTake s p tb).params = s.params := (afterTake_offPorts s p tb).params
@[simp] theorem afterTake_seq (s p tb) : (afterTake s p tb).seq = s.seq := (afterTake_offPorts s p tb).seq
@[simp] theorem afterTake_clock (s p tb) : (afterTake s p tb).clock = s.clock := (afterTake_offPorts s p tb).clock
@[simp] theorem afterTake_thermal (s p tb) : (afterTake s p tb).thermal = s.thermal :=
  (afterTake_offPorts s p tb).thermal
@[simp] theorem afterTake_memory (s p tb) : (afterTake s p tb).memory = s.memory := (afterTake_offPorts s p tb).memory
@[simp] theorem afterTake_now (s p tb) : (afterTake s p tb).now = s.now := (afterTake_offPorts s p tb).now
@[simp] theorem afterTake_sup (s p tb) : (afterTake s p tb).supervisor = s.supervisor :=
  (afterTake_offPorts s p tb).supervisor
@[simp] theorem afterTake_hold (s p tb) : (afterTake s p tb).retentionHold = s.retentionHold :=
  (afterTake_offPorts s p tb).retentionHold
@[simp] theorem afterTake_run (s p tb) : (afterTake s p tb).isRunning = s.isRunning :=
  (afterTake_offPorts s p tb).isRunning
theorem reportGood_fifo (s p q) : (reportGood s p).fifo q = s.fifo q := by
  unfold reportGood; dsimp only; split <;> simp
theorem reportGood_slot (s p q) : (reportGood s p).slot q = s.slot q := by
  unfold reportGood; dsimp only; split <;> simp
theorem reportGood_notices (s p q) : (reportGood s p).notices q = s.notices q := by
  unfold reportGood; dsimp only; split <;> simp
@[simp] theorem afterTake_fifo (s p tb q) : (afterTake s p tb).fifo q = s.fifo q :=
  by simp [afterTake, takeTag, reportGood_fifo]
@[simp] theorem afterTake_slot (s p tb q) : (afterTake s p tb).slot q = s.slot q :=
  by simp [afterTake, takeTag, reportGood_slot]
@[simp] theorem afterTake_notices (s p tb q) : (afterTake s p tb).notices q = s.notices q :=
  by simp [afterTake, takeTag, reportGood_notices]
@[simp] theorem afterTake_lookup (s p tb b) : lookup (afterTake s p tb) b = lookup s b := by
  unfold lookup; simp

theorem replyFor_session (s : State) (p k tb) (h : (s.session p).state = .opened) :
   (replyFor s p k tb).session = some (s.session p).number := by
  simp [replyFor, State.presentSession, Session.live, h]

/-- What the owner of a request kind does with an admitted request. -/
def ownerOf : Kind → State → Request → Host.Outcome State Fault Refusal
  | .hello => fun t q => withFields t q readHello (serveHello t q)
  | .leave => fun t q => withFields t q readEmpty fun _ => serveLeave t q
  | .ping => fun t q => withFields t q readEmpty fun _ => answer t q.replyTo .ok
  | .status => fun t q => withFields t q readEmpty fun _ => reply t q.replyTo (statusPayload t)
  | .setParam => fun t q => withFields t q readSetParam (serveSetParam t q)
  | .getParam => fun t q => withFields t q readOne (serveGetParam t q)
  | .defineRegion => fun t q => withFields t q readDefine (serveDefine t q)
  | .alterRegion => fun t q => withFields t q readAlter (serveAlter t q)
  | .deleteRegion => fun t q => withFields t q readOne (serveDelete t q)
  | .queryRegion => fun t q => withFields t q readOne (serveQuery t q)
  | .claim => fun t q => withFields t q readClaim (serveClaim t q)
  | .accept => fun t q => withFields t q readOne (serveAccept t q)
  | .withdraw => fun t q => withFields t q readOne (serveWithdraw t q)
  | .release => fun t q => withFields t q readOne (serveRelease t q)
  | .revoke => fun t q => withFields t q readOne (serveRevoke t q)
  | .unfence => fun t q => withFields t q readOne (serveUnfence t q)
  | .read => fun t q => serveTx t .read q
  | .write => fun t q => serveTx t .write q
  | .fill => fun t q => serveTx t .fill q
  | .reinit => fun t q => withFields t q readEmpty fun _ => serveReinit t q
  | .resume => fun t q => withFields t q readEmpty fun _ => serveResume t q
  | .clearSuspect => fun t q => withFields t q readEmpty fun _ => serveClearSuspect t q
  | .restart => fun t q => withFields t q readEmpty fun _ => serveRestart t q
  | .evictPort => fun t q => withFields t q readOne (serveEvict t q)

theorem exec_requestCommand (k p tb pl s) : exec (requestCommand k p tb pl) s = request p k tb pl (ownerOf k) s := by
  cases k <;> rfl

/-- An admitted request is its owner's answer. -/
theorem exec_admitted (s p k tb pl) (h : Takes s p tb pl) (ha : Admitted s p k) :
   exec (requestCommand k p tb pl) s = ownerOf k (afterTake s p tb) ⟨replyFor s p k tb, tb, pl⟩ := by
  rw [exec_requestCommand, request_admitted _ _ _ _ _ _ h ha]

theorem withFields_some {α} (s : State) (q : Request) (rd : List Byte → Option α) (act) (f) (h : q.fields rd = some f) :
   withFields s q rd act = .next (act f) := by simp [withFields, h]

theorem fields_unflagged {α} (rt : ReplyTo) (tb pl) (rd : List Byte → Option α) (h : anyFlag tb = false) :
   Request.fields ⟨rt, tb, pl⟩ rd = rd pl := by simp [Request.fields, h]
end Sys2Proof.Machine
end

