-- ==== Sys2Proof/Tests/Slice0.lean ====
section
/-! SUPPORT. Tests: what the well-formedness check refuses, values the manual writes out, single steps on a small
state, and for each statement with hypotheses a state and operands that meet them, clause by clause. -/

namespace Sys2Proof.Tests

open Sys2Proof Machine

set_option maxRecDepth 20000

/-! ### Small states -/

/-- The port's session OPEN under number 1. -/
def opened (s : State) (p : Port) : State := s.setSession p ⟨.opened, 1, none, none⟩

/-- After reset, with ports A (the supervisor) and B open. -/
def two : State := opened (opened State.reset .a) .b

/-- A region of two pages. -/
def record (st : RegionState) : Region := ⟨0, 2, none, true, 30, .fence, st, 1, [], none, none, []⟩

/-- The region as region 0 of `two`. -/
def holding (r : Region) : State := two.setRegion 0 (some r)

def lease (p : Port) (m : Mode) : Holder := ⟨p, 1, m, [], false, false⟩

/-- The state with the Sequencer changed. -/
def tuned (s : State) (f : Sequencer → Sequencer) : State := s.setSeq (f s.seq)

/-- The state with its DRAM in a state. -/
def inDram (s : State) (d : DramState) : State := tuned s fun q => { q with dram := d }

/-- A transaction of port B on region 0, at an unaligned address. -/
def job (k : TxKind) (length : Nat) : Entry := ⟨1, 1, k, 0, 1, 5, length, List.replicate length 7, 9, 0, false, [], none⟩

/-- A READ of 16 bytes at offset 0 of region 0, at epoch 1. -/
def readBytes : List Byte := [0, 1, 0, 0, 0, 0, 0, 16, 0]

/-- A timer. -/
def clockwork : Timer := ⟨5, 7⟩

/-! ### Well-formedness -/

theorem test_payload_of_321_refused : (Instr.ping .a 0 (List.replicate 321 0)).wellFormed = false := by decide
theorem test_payload_of_320_admitted : (Instr.ping .a 0 (List.replicate 320 0)).wellFormed = true := by decide
theorem test_known_kind_is_no_bad_kind : (Instr.badKindFrame .a 0x01 0 []).wellFormed = false := by decide
theorem test_unknown_kind_is_bad_kind : (Instr.badKindFrame .a 0x19 0 []).wellFormed = true := by decide
theorem test_bad_kind_with_long_payload_refused :
    (Instr.badKindFrame .a 0x19 0 (List.replicate 321 0)).wellFormed = false := by decide
theorem test_good_frame_is_no_bad_frame :
    (Instr.badFrame .a (Frame.wire ⟨0x03, 0, []⟩)).wellFormed = false := by decide
theorem test_overlength_is_bad : (Instr.badFrame .a [0xC3, 0x03, 0, 0x41, 0x01]).wellFormed = true := by decide
theorem test_noise_is_no_gap : (Instr.gapTimeout .a [0x55, 0x66]).wellFormed = false := by decide
theorem test_header_begun_is_gap : (Instr.gapTimeout .a [0xC3, 0x03]).wellFormed = true := by decide
theorem test_frame_already_begun_is_gap : (Instr.gapTimeout .a []).wellFormed = true := by decide
theorem test_two_bad_frames_are_no_bad_frame :
    (Instr.badFrame .a [0xC3, 0x03, 0, 0x41, 0x01, 0xC3, 0x03, 0, 0x41, 0x01]).wellFormed = false := by decide

/-! ### Values the manual writes out -/

/-- R184's check value: the CRC of the nine characters 1 to 9. -/
theorem test_crc_check_value : crc16 [0x31, 0x32, 0x33, 0x34, 0x35, 0x36, 0x37, 0x38, 0x39] = 0x29B1 := by
  decide

/-- R163: the backup oscillator rounds a duration up to whole periods of 125 ns. -/
theorem test_backup_durations : opNs State.reset 350 = 500 ∧ opNs State.reset 700 = 1000 ∧ opNs State.reset 24 = 125 := by
  decide

/-- R119: the bank and row of an address. -/
theorem test_bank_and_row : bankOf 0xFFF = 3 ∧ rowOf 0x4000 = 2 := by decide

/-- R105: a range of 40 bytes from an address 5 above a block boundary has three bursts. -/
theorem test_three_bursts :
    (job .write 40).bursts = 3 ∧ (job .write 40).bytesIn 1 = 11 ∧ (job .write 40).bytesIn 2 = 27 ∧
      (job .write 40).bytesIn 3 = 40 := by decide

/-! ### Single steps -/

/-- What the step leaves, or the state itself where it stops. -/
def after (c : Instr) (s : State) : State :=
  match exec c s with
  | .next t => t
  | .fault _ => s
  | .refused _ => s

/-- The fault the command ends in, if it does. -/
def faultOf (c : Instr) (s : State) : Option Fault :=
  match exec c s with
  | .next _ => none
  | .fault f => some f
  | .refused _ => none

theorem test_step_takes_front :
    step { State.reset with pending := [.refEdge] } = exec .refEdge State.reset := rfl

theorem test_hello_opens : ((after (.hello .b 2 [5, 1, 0x41]) State.reset).session .b)
    = ⟨.opened, 1, some [0x41], none⟩ := by decide

theorem test_request_without_session : ((after (.ping .c 1 []) State.reset).link .c).cached 1
    = some ⟨0x83, 1, [0x11]⟩ := by decide

theorem test_bad_kind_refused : (((after (.badKindFrame .b 0x55 3 []) two).link .b).tx.map Transmission.frame)
    = some ⟨0xF0, 3, [1]⟩ := by decide

theorem test_define_then_claim :
    (((after (.claim .b 1 [2, 0]) (after (.defineRegion .a 1 [2, 8, 0, 2, 0, 0, 0, 1, 30, 0, 0, 0]) two)).region 2).map
      fun r => (r.state, r.epoch, r.holders)) = some (.exclusive, 1, [lease .b .exclusive]) := by decide

theorem test_write_burst_stores :
    ((after .burstComplete (tuned (two.setFifo .b [job .write 40]) fun q =>
      { q with bus := .burst .b false })).memory.cells.map Prod.fst) = [5, 6, 7, 8, 9, 10, 11, 12, 13, 14, 15] := by decide

theorem test_lock_begins_init : (after .lockTimerExpiry State.reset).seq.dram = .initializing .resetHold := by
  decide

theorem test_full_slot_faults :
    faultOf (.read .b 1 readBytes)
      ((two.setFifo .b (List.replicate 8 (job .read 1))).setSlot .b (some ⟨⟨.b, 2, some 1, .read⟩, 2, readBytes⟩))
      = some .admissionSlotOccupied := by decide

theorem test_burst_outside_faults :
    faultOf .burstComplete (tuned (two.setFifo .b [{ job .fill 40 with start := 268435456 }]) fun q =>
      { q with bus := .burst .b false }) = some .burstOutsideDram := by decide

/-! ### Witnesses: steps, laws and frames -/

theorem test_hyp_idle : State.reset.pending = [] := rfl
theorem test_hyp_queue : exec .resetHoldComplete State.reset = .next State.reset := rfl
theorem test_hyp_memory : State.reset.memory.wf = true ∧ step State.reset = .next { State.reset with now := 1 } :=
  ⟨by decide, rfl⟩

/-- In SELF_REFRESH with the banks CLOSED and the band NORMAL, waiting for the next tick. -/
def asleep : State :=
  { inDram two (.selfRefresh .normal) with
    thermal := ⟨some 20, .normal, some clockwork, true⟩, pending := [.refreshTick] }

theorem test_hyp_banks : BanksLaw asleep ∧ (∃ t, step asleep = .next t) := ⟨rfl, _, rfl⟩

theorem test_hyp_band : BandLaw asleep ∧ (∃ t, step asleep = .next t) :=
  ⟨⟨fun _ _ => ⟨rfl, rfl⟩, fun h => nomatch h⟩, _, rfl⟩

theorem test_hyp_regions :
    RegionsLaw (holding (record .free)) ∧ RegionsFit (holding (record .free)) ∧
      ∃ t, step (holding (record .free)) = .next t := by
  have only : ∀ i a, (holding (record .free)).region i = some a → i = 0 ∧ a = record .free := by
    intro i a h
    by_cases hi : i = 0
    · subst hi
      rw [holding, region_setRegion_self] at h
      exact ⟨rfl, (Option.some.inj h).symm⟩
    · rw [holding, region_setRegion_ne _ _ hi] at h
      exact absurd h (by simp [two, opened, State.reset, State.powerOn, State.region])
  refine ⟨fun i j a b hij ha hb => absurd ((only i a ha).1.trans (only j b hb).1.symm) hij, fun i a h => ?_, _, rfl⟩
  rw [(only i a h).2]
  decide

theorem test_hyp_ports : BoundsLaw two ∧ ReceiversLaw two ∧ ∃ t, step two = .next t :=
  ⟨fun p => by cases p <;> exact ⟨by decide, by decide, by decide, by decide, by decide⟩,
    fun p => by cases p <;> exact rfl, _, rfl⟩

theorem test_hyp_params : DebtLaw two ∧ ParamsLaw two ∧ ∃ t, step two = .next t :=
  ⟨⟨by decide, by decide⟩, ⟨by decide, by decide, fun p => by cases p <;> decide, by decide, by decide, by decide,
    by decide, by decide⟩, _, rfl⟩

theorem test_hyp_sequencer_frame :
    sequencerEvent .refEdge = true ∧ exec .refEdge two = .next (after .refEdge two) ∧
      (after .refEdge two).seq.condition ≠ .suspect ∧ (after .refEdge two).seq.dram = .uninitialized :=
  ⟨rfl, rfl, by decide, rfl⟩

theorem test_hyp_request_frame : Hears two .b ∧ ([] : List Byte).length ≤ 320 ∧
    exec (requestCommand .ping .b 1 []) two = .next (after (.ping .b 1 []) two) :=
  ⟨by decide, by decide, rfl⟩

/-! ### Witnesses: links -/

theorem test_hyp_bad_crc : startMarker ∉ [(0x55 : Byte)] ∧ (Frame.mk 3 0 []).payload.length ≤ 320 ∧
    u16 0 0 ≠ (crc16 (Frame.mk 3 0 []).body).toNat := by decide
theorem test_hyp_overlength : startMarker ∉ ([] : List Byte) ∧ 320 < u16 0x41 0x01 := by decide

/-- An OVERLENGTH frame. -/
def overlong : List Byte := [0xC3, 3, 0, 0x41, 0x01]

/-- R4: the byte 0xC3 after the end of an OVERLENGTH frame begins the next frame, which a gap then ends. -/
theorem test_tail_begins_a_frame : ((after (.badFrame .b (overlong ++ [0x55, 0xC3, 3])) two).link .b).rx
      = ⟨.header, [3], some ⟨200000, 200000⟩⟩ ∧
    ((after (.gapTimeout .b []) (after (.badFrame .b (overlong ++ [0x55, 0xC3, 3])) two)).link .b).badFrames = 2 ∧
    ((after (.gapTimeout .b []) (after (.badFrame .b (overlong ++ [0x55, 0xC3, 3])) two)).link .b).rx
      = Receiver.idle := by decide

theorem test_hyp_bad_frame_counted : Hears two .b ∧ (two.link .b).badFrames < 7 ∧
    Receiver.idle.hear two.now overlong = (Receiver.idle, [.bad .overlength]) ∧
    (two.link .b).rx.hear two.now overlong = (Receiver.idle, [.bad .overlength]) ∧
    Receiver.idle.hear two.now [0xC3, 3] = (⟨.header, [3], some ⟨200000, 200000⟩⟩, []) := by
  decide

/-- Seven bad frames on port B and on port C, which has no session. -/
def sevenBad : State :=
  (two.setLink .b { two.link .b with badFrames := 7 }).setLink .c { two.link .c with badFrames := 7 }

theorem test_hyp_eighth_bad_frame : Hears sevenBad .b ∧ Hears sevenBad .c ∧ (sevenBad.link .b).badFrames = 7 ∧
    (sevenBad.link .c).badFrames = 7 ∧ (sevenBad.session .b).live = true ∧ (sevenBad.session .c).live = false ∧
    refusalsWaiting (sevenBad.link .b) < 16 := by decide

theorem test_hyp_unknown_kind : clientKind 0x55 = false ∧ Hears two .b := by decide

/-- Tag 1 of port B in flight. -/
def busyTag : State := two.setLink .b { two.link .b with inFlight := (two.link .b).withEntry 1 (.taken (some 1)) }

theorem test_hyp_busy_tag : Hears busyTag .b ∧ (busyTag.link .b).entry (tagOf 1) = .taken (some 1) := by decide

/-- A notice waits on port B, whose credit is 0. -/
def noticed : State := two.setNotices .b ⟨[.refLost], 0, 0⟩

theorem test_hyp_credit : Hears noticed .b ∧ (noticed.session .b).live = true ∧ (noticed.link .b).tx = none ∧
    (noticed.link .b).responses = [] ∧ (noticed.notices .b).queue = [.refLost] ∧ 1 ≤ (1 : Byte).toNat ∧
    (16 : Byte).toNat ≤ 16 ∧ (two.notices .b).queue = [] ∧ Hears two .c ∧ (two.session .c).live = false ∧
    16 < (17 : Byte).toNat := by decide

/-- A queue with a YIELD for region 3 and a THERMAL. -/
def queue (n : Nat) : Notices := ⟨.yield 3 none :: .thermal .warm none :: List.replicate n .refLost, 254, 0⟩

/-- R178, R179: coalesced, replaced in place, appended, dropped and counted. -/
theorem test_notice_queue : (queue 0).enqueue (.yield 3 (some 4)) = queue 0 ∧
    ((queue 0).enqueue (.thermal .hot (some 110))).queue = [.yield 3 none, .thermal .hot (some 110)] ∧
    ((queue 0).enqueue (.yield 4 none)).queue = [.yield 3 none, .thermal .warm none, .yield 4 none] ∧
    ((queue 14).enqueue .refLost).lost = 255 ∧ ((queue 14).enqueue .refLost).queue = (queue 14).queue := by decide

theorem test_hyp_notices : two.isRunning = true ∧ (two.session .b).live = true ∧ (two.session .c).live = false ∧
    Notice.yield 3 none ∈ (queue 0).queue ∧ (∃ y ∈ (queue 0).queue, y.isThermal = true) ∧
    Notice.refLost.isThermal = false ∧ (queue 13).queue.length < 16 ∧ 16 ≤ (queue 14).queue.length := by decide

/-- A PING reply of tag 1 in the cache of port B. -/
def cachedReply : State :=
  two.setLink .b { two.link .b with cache := (two.link .b).withCached 1 ⟨0x83, 1, [0]⟩ }

theorem test_hyp_resend : Hears cachedReply .b ∧ 8 ≤ (8 : Byte).toNat ∧ (1 : Byte).toNat = (1 : Tag).val ∧
    (busyTag.link .b).entry 1 = .taken (some 1) ∧ (two.link .b).entry 1 = .free ∧ (two.link .b).cached 1 = none ∧
    (cachedReply.link .b).entry 1 = .free ∧ (cachedReply.link .b).cached 1 = some ⟨0x83, 1, [0]⟩ ∧
    replyWaits (cachedReply.link .b) ⟨0x83, 1, [0]⟩ = false ∧
    replyWaits { two.link .b with responses := [⟨.reply, ⟨0x83, 1, [0]⟩, false⟩] } ⟨0x83, 1, [0]⟩ = true := by
  decide

/-- A frame in transmission on port B, the OK of a RESTART or not. -/
def sending (s : State) (restart : Bool) : State :=
  s.setLink .b { s.link .b with tx := some ⟨⟨0x83, 1, [0]⟩, restart⟩ }

theorem test_hyp_transmitted :
    ((sending two true).link .b).tx = some ⟨⟨0x83, 1, [0]⟩, true⟩ ∧ (sending two false).isRunning = true ∧
      ((sending (two.setLink .b { two.link .b with responses := [⟨.nak, nakFrame 1 .gap, false⟩] }) false).link
        .b).responses = [⟨.nak, nakFrame 1 .gap, false⟩] ∧
      ({ sending two true with restart := .begun .pin } : State).isRunning = false ∧
      ((sending two false).link .b).responses = [] ∧ ((sending two false).link .b).credit = 0 ∧
      0 < ((sending (noticed.setLink .b { two.link .b with credit := 1 }) false).link .b).credit ∧
      ((sending (noticed.setLink .b { two.link .b with credit := 1 }) false).notices .b).queue = [.refLost] := by
  decide

/-! ### Witnesses: requests in general and sessions -/

/-- Port B in CLOSING, its LEAVE on tag 2. -/
def closing : State :=
  (two.setSession .b ⟨.closing 2, 1, none, none⟩).setLink .b
    { two.link .b with inFlight := (two.link .b).withEntry 2 (.taken (some 1)) }

theorem test_hyp_session_checks : Takes two .c 1 [] ∧ (two.session .c).state = .closed ∧ Takes closing .b 1 [] ∧
    (closing.session .b).state = .closing 2 ∧ Takes two .b 1 [] ∧ (two.session .b).state = .opened ∧
    Kind.supervisorOnly .restart = true ∧ Port.b ≠ two.supervisor ∧ Kind.ping ≠ .hello := by decide

theorem test_hyp_bad_labels : Takes two .c 1 [5] ∧ labelAt .hello = some 1 ∧ BadLabel [5] 1 ∧
    BadLabel [5, 1, 0x41, 0x42] 1 ∧ BadLabel (5 :: 17 :: List.replicate 17 0x41) 1 ∧ BadLabel [5, 1, 0x7F] 1 := by decide

theorem test_hyp_bad_region_labels : Takes two .a 1 [0, 0, 0, 1, 0, 0, 0, 1, 30, 0, 0, 1] ∧
    Admitted two .a .defineRegion ∧ BadLabel [0, 0, 0, 1, 0, 0, 0, 1, 30, 0, 0, 1] 11 ∧
    Takes two .a 1 [0, 16, 0, 0, 0, 0, 0] ∧ 16 ≤ (([0, 16, 0, 0, 0, 0, 0] : List Byte).getD 1 0).toNat ∧
    Takes two .a 1 [0, 0, 0, 0, 0, 0, 1, 0x41] ∧ Admitted two .a .alterRegion ∧
    (([0, 0, 0, 0, 0, 0, 1, 0x41] : List Byte).getD 1 0).getLsbD 0 = false := by decide

theorem test_hyp_bad_format : Takes two .b 9 [] ∧ Admitted two .b .ping ∧ anyFlag 9 = true ∧ Takes two .b 1 [0] ∧
    fixedLength .ping = some 0 ∧ Takes two .b 1 [0, 1] ∧ (two.fifo .b).length < 8 ∧ Admitted two .b .write := by
  decide

theorem test_hyp_no_region : lookup two 32 = none ∧ lookup two 31 = none ∧ lookup two 0 = none ∧
    Reaches two .b .accept 1 [0] ∧ Reaches two .a .unfence 1 [32] ∧ Reaches two .b .claim 1 [0, 0] ∧
    Reaches two .a .alterRegion 1 [0, 0, 0, 0, 0, 0, 0] ∧ Reaches two .b .read 1 readBytes ∧
    (readAlter [0, 0, 0, 0, 0, 0, 0]).map AlterFields.id = some 0 ∧ (readTx .read readBytes).map TxFields.id = some 0 ∧
    lengthInRange .read 16 = true := by decide

theorem test_hyp_hello : Takes two .c 1 [16, 1, 0x41] ∧ Takes two .c 1 [17, 0] ∧ Takes two .b 1 [16, 0] ∧
    anyFlag 1 = false ∧ labelWellFormed 1 [0x41] = true ∧ (16 : Byte).toNat ≤ 16 ∧ 16 < (17 : Byte).toNat ∧
    (two.session .c).state = .closed ∧ (two.session .b).live = true := by decide

theorem test_hyp_leave : Reaches two .b .leave 2 [] ∧ closing.isRunning = true ∧
    (closing.session .b).state = .closing 2 ∧ closing.fifo .b = [] ∧ closing.slot .b = none ∧
    (closing.link .b).entry 2 = .taken (some (closing.session .b).number) ∧
    ∀ v : Tag, v ≠ 2 → (closing.link .b).entry v = .free := by decide

theorem test_hyp_ping_status : Reaches two .b .ping 1 [] ∧ Reaches two .b .status 7 [] := by decide

theorem test_hyp_lost_sessions :
    ((two.setSession .b ⟨.opened, 1, none, some clockwork⟩).session .b).silence = some clockwork ∧
      two.isRunning = true ∧ Reaches two .a .evictPort 1 [4] ∧ 4 ≤ (4 : Byte).toNat ∧ Reaches two .a .evictPort 1 [0] ∧
      (0 : Byte).toNat = Port.index two.supervisor ∧ Reaches two .a .evictPort 1 [3] ∧
      (two.session .d).state = .closed ∧ Reaches two .a .evictPort 1 [1] ∧ (two.session .b).live = true := by
  decide

/-! ### Witnesses: parameters and regions -/

theorem test_hyp_set_param : Reaches two .a .setParam 1 [1, 10, 0] ∧ paramOf 0 = none ∧ paramOf 15 = none ∧
    paramOf 1 = some .keepaliveMs ∧ two.params.admits .keepaliveMs 10 = true ∧
    two.params.admits .keepaliveMs 9 = false ∧ paramOf 11 = some .refreshHighWater ∧
    two.params.admits .refreshHighWater 7 = true ∧ two.seq.debt < u16 7 0 ∧
    u16 7 0 ≤ (tuned two fun q => { q with dram := .powerDown .active, debt := 7 }).seq.debt ∧
    (inDram two (.powerDown .active)).seq.residency = none := by decide

theorem test_hyp_get_param : Reaches two .b .getParam 1 [14] ∧ paramOf 14 = some .resumePolicy ∧ paramOf 0 = none := by
  decide

/-- A DEFINE_REGION of region 0 with one page from a base page, SHARED allowed. -/
def defining (base : Byte) (shared : Byte) : List Byte := [0, base, 0, 1, 0, 0, 0, shared, 30, 0, 0, 0]

theorem test_hyp_define : Reaches two .a .defineRegion 1 (defining 0 1) ∧ two.region 0 = none ∧
    (readDefine (defining 0 1)).map (fun f => (f.id, f.basePage, f.pageCount)) = some (0, 0, 1) ∧
    (holding (record .free)).region 0 = some (record .free) ∧ boolOf 1 = some true ∧ boolOf 2 = none ∧
    lossActionOf 0 = some .fence ∧ (two.setRegion 1 (some (record .free))).region 1 = some (record .free) ∧
    (readDefine [32, 0, 0, 1, 0, 0, 0, 1, 30, 0, 0, 0]).map DefineFields.id = some 32 := by decide

/-- An ALTER_REGION of region 0 with every field present. -/
def altering (shared : Byte) : List Byte := [0, 15, 60, 0, 1, shared, 0]

theorem test_hyp_alter : Reaches (holding (record .free)) .a .alterRegion 1 (altering 0) ∧
    readAlter (altering 0) = some ⟨0, some [], some 60, some 1, some 0⟩ ∧
    lookup (holding (record .free)) 0 = some (0, record .free) ∧ sharedPresent (record .free) = false ∧
    sharedPresent { record .shared with holders := [lease .b .shared] } = true ∧ boolOf 2 = none ∧
    (readAlter (altering 2)).map AlterFields.shared = some (some 2) := by decide

theorem test_hyp_delete_query : Reaches (holding (record .free)) .a .deleteRegion 1 [0] ∧
    Reaches (holding (record .free)) .b .queryRegion 1 [0] ∧
    lookup (holding (record .fenced)) 0 = some (0, record .fenced) ∧
    lookup (holding (record .exclusive)) 0 = some (0, record .exclusive) := by decide

/-! ### Witnesses: claims and leases -/

/-- Region 0 held EXCLUSIVE by port A. -/
def heldByA : Region := { record .exclusive with holders := [lease .a .exclusive] }

/-- Region 0 held by port B, with the RELEASEs that wait. -/
def heldByB (waiting : List Tag) : Region :=
  { record .exclusive with holders := [{ lease .b .exclusive with pendingRelease := waiting }] }

/-- Region 0 offered to port B. -/
def offeredToB : Region := { record .offered with offer := some ⟨.b, 1, .exclusive, 1000⟩ }

/-- Region 0 held SHARED by port A. -/
def sharedByA : Region := { record .shared with holders := [lease .a .shared] }

/-- A claim of port B. -/
def claimOfB : Claim := ⟨.b, 1, .exclusive, 1⟩

theorem test_hyp_claim_queued : Reaches (holding (record .fenced)) .b .claim 1 [0, 1] ∧
    lookup (holding (record .fenced)) 0 = some (0, record .fenced) ∧ modeOf 1 = some .shared ∧
    (record .fenced).sharedAllowed = true ∧ alreadyThere (record .fenced) .b (some 1) = false ∧
    Reaches (holding heldByA) .b .claim 1 [0, 0] ∧ lookup (holding heldByA) 0 = some (0, heldByA) ∧
    modeOf 0 = some .exclusive ∧ alreadyThere heldByA .b (some 1) = false ∧
    heldByA.holders = [lease .a .exclusive] ∧ heldByA.queue = [] := by decide

theorem test_hyp_claim_at_once : Reaches (holding (record .free)) .b .claim 1 [0, 0] ∧
    lookup (holding (record .free)) 0 = some (0, record .free) ∧ (record .free).queue = [] ∧
    (record .free).holders = [] ∧ Reaches (holding sharedByA) .b .claim 1 [0, 1] ∧
    lookup (holding sharedByA) 0 = some (0, sharedByA) ∧ alreadyThere sharedByA .b (some 1) = false ∧
    (∀ h ∈ sharedByA.holders, h.revokePending = false) ∧
    lookup (holding { record .free with sharedAllowed := false }) 0
      = some (0, { record .free with sharedAllowed := false }) ∧
    alreadyThere (heldByB []) .b (some 1) = true := by decide

theorem test_hyp_accept : Reaches (holding offeredToB) .b .accept 1 [0] ∧
    lookup (holding offeredToB) 0 = some (0, offeredToB) ∧
    offerIn offeredToB .b (some 1) = some ⟨.b, 1, .exclusive, 1000⟩ ∧ offeredToB.holders = [] ∧
    offerIn (record .free) .b (some 1) = none ∧
    offerIn { sharedByA with offer := some ⟨.b, 1, .shared, 1000⟩ } .b (some 1) = some ⟨.b, 1, .shared, 1000⟩ ∧
    sharedByA.holders ≠ [] := by decide

theorem test_hyp_withdraw : Reaches (holding offeredToB) .b .withdraw 1 [0] ∧
    claimIn (record .free) .b (some 1) = false ∧ offerIn (record .free) .b (some 1) = none ∧
    claimIn { record .fenced with queue := [claimOfB] } .b (some 1) = true ∧
    claimIn { offeredToB with offer := some ⟨.c, 1, .shared, 9⟩, queue := [claimOfB] } .b (some 1) = true ∧
    offerIn offeredToB .b (some 1) ≠ none ∧ offeredToB.holders = [] ∧ offeredToB.queue = [] := by decide

theorem test_hyp_release : Reaches (holding (heldByB [])) .b .release 1 [0] ∧
    holderIn (record .free) .b (some 1) = none ∧ holderIn (heldByB []) .b (some 1) = some (lease .b .exclusive) ∧
    (holderIn (heldByB [3]) .b (some 1)).map Holder.pendingRelease = some [3] ∧
    countOn (holding (heldByB [])) .b 0 = 0 ∧
    countOn ((holding (heldByB [])).setFifo .b [job .write 40]) .b 0 ≠ 0 := by decide

theorem test_hyp_revoke : Reaches (holding (heldByB [])) .a .revoke 1 [0] ∧
    lookup (holding (heldByB [])) 0 = some (0, heldByB []) ∧ (heldByB []).holders = [lease .b .exclusive] ∧
    countOn (holding (heldByB [])) .b 0 = 0 ∧ (record .offered).state = .offered := by decide

theorem test_hyp_unfence : Reaches (holding (record .fenced)) .a .unfence 1 [0] ∧
    lookup (holding { record .fenced with queue := [claimOfB] }) 0 = some (0, { record .fenced with queue := [claimOfB] }) ∧
    (record .fenced).holders = [] ∧ (record .fenced).offer = none ∧ (record .free).state ≠ .fenced := by decide

/-- Region 0 held by port A and recalled for port B. -/
def recalled : Region := { heldByA with state := .recalling, recallDeadline := some 9, queue := [claimOfB] }

theorem test_hyp_deadlines : (holding offeredToB).isRunning = true ∧
    (holding offeredToB).region 0 = some offeredToB ∧ offeredToB.offer = some ⟨.b, 1, .exclusive, 1000⟩ ∧
    ({ sharedByA with offer := some ⟨.b, 1, .shared, 9⟩ } : Region).queue = [] ∧
    (holding recalled).region 0 = some recalled ∧ recalled.recallDeadline = some 9 ∧
    recalled.holders = [lease .a .exclusive] ∧ countOn (holding recalled) .a 0 = 0 ∧ recalled.offer = none := by
  decide

/-- Port B's RELEASE of region 0 waits on tag 3, and the report of its last transaction is on its way. -/
def reported (count : Nat) : State :=
  { (holding (heldByB [3])).setLink .b
      { two.link .b with inFlight := (two.link .b).withEntry 3 (.taken (some 1)) } with
    reports := [⟨.b, 1, 0, count⟩] }

theorem test_hyp_end_reports : (reported 0).isRunning = true ∧ (reported 0).reports = [⟨.b, 1, 0, 0⟩] ∧
    (reported 0).region 0 = some (heldByB [3]) ∧ countOn (reported 0) .b 0 = 0 ∧
    (reported 0).presentSession .b = some 1 ∧ ((reported 0).link .b).entry 3 = .taken (some 1) ∧
    (reported 2).reports = [⟨.b, 1, 0, 2⟩] := by decide

/-- Port B, revoke pending, with RELEASEs that wait on tags 3 and 4. -/
def revokedTwice (holders : List Holder) : State :=
  { (holding { record .exclusive with holders := holders }).setLink .b
      { two.link .b with
        inFlight := ((two.link .b).withEntry 3 (.taken (some 1))).set 4 (.taken (some 1)) } with
    reports := [⟨.b, 1, 0, 0⟩] }

def revokedB (waiting : List Tag) : Holder := ⟨.b, 1, .exclusive, waiting, true, false⟩

/-- R82: a second RELEASE of a revoke-pending holder waits too, and both are answered REVOKED at the removal. -/
theorem test_releases_of_revoked :
    ((after (.release .b 5 [0]) (revokedTwice [revokedB [3]])).region 0).map Region.holders = some [revokedB [3, 5]] ∧
    ((after .transactionEndReport (revokedTwice [revokedB [3, 4]])).link .b).cached 3 = some ⟨0x8E, 3, [0x33]⟩ ∧
    ((after .transactionEndReport (revokedTwice [revokedB [3, 4]])).link .b).cached 4 = some ⟨0x8E, 4, [0x33]⟩ := by
  decide

theorem test_hyp_revoked_releases : (revokedTwice [revokedB [3, 4]]).isRunning = true ∧
    (revokedTwice [revokedB [3, 4]]).reports = [⟨.b, 1, 0, 0⟩] ∧ countOn (revokedTwice [revokedB [3, 4]]) .b 0 = 0 ∧
    (revokedTwice [revokedB [3, 4]]).presentSession .b = some 1 ∧
    ((revokedTwice [revokedB [3, 4]]).link .b).entry 4 = .taken (some 1) ∧
    Reaches (revokedTwice [revokedB [3]]) .b .release 5 [0] ∧
    holderIn { record .exclusive with holders := [revokedB [3]] } .b (some 1) = some (revokedB [3]) := by decide

/-- Port B with a session whose silence timer runs, region 0 held by it EXCLUSIVE or SHARED, or claimed by it, and with
a loss_action. -/
def losing (r : Region) (action : LossAction) (fifo : List Entry) : State :=
  (((holding { r with lossAction := action }).setSession .b ⟨.opened, 1, none, some clockwork⟩).setFifo .b fifo)

/-- A claim of port C. -/
def claimOfC : Claim := ⟨.c, 1, .shared, 1⟩

/-- R87 to R91: FENCED, FREE, offered to the next claim, SHARED removed, a claim removed, and EXCLUSIVE marked lost while
a burst is issued. -/
theorem test_losses :
    (((after (.silenceTimeout .b) (losing (heldByB []) .fence [])).region 0).map fun r => (r.state, r.holders))
      = some (.fenced, []) ∧
    (((after (.silenceTimeout .b) (losing (heldByB []) .free [])).region 0).map Region.state) = some .free ∧
    (((after (.silenceTimeout .b) (losing { heldByB [] with queue := [claimOfC] } .free [])).region 0).map
      fun r => (r.state, r.offer)) = some (.offered, some ⟨.c, 1, .shared, 20000007⟩) ∧
    (((after (.silenceTimeout .b) (losing { record .shared with holders := [lease .b .shared] } .fence [])).region 0).map
      Region.state) = some .free ∧
    (((after (.silenceTimeout .b) (losing { heldByA with queue := [claimOfB] } .fence [])).region 0).map Region.queue)
      = some [] ∧
    (((after (.silenceTimeout .b)
      (losing (heldByB []) .fence [{ job .write 40 with issued := true }])).region 0).map Region.holders)
      = some [{ lease .b .exclusive with lost := true }] := by decide

theorem test_hyp_losses : (losing (heldByB []) .fence []).isRunning = true ∧
    ((losing (heldByB []) .fence []).session .b).silence = some clockwork ∧
    (losing (heldByB []) .free []).fifo .b = [] ∧ (lease .b .exclusive).isOf .b 1 = true ∧
    eraseClaim .b 1 [claimOfB] = [] ∧ eraseClaim .b 1 [claimOfB, claimOfC] = [claimOfC] ∧
    (lease .b .shared).isOf .b 1 = true ∧
    (losing (heldByB []) .fence [{ job .write 40 with issued := true }]).fifo .b
      = [{ job .write 40 with issued := true }] ∧
    claimIn heldByA .b (some 1) = false ∧ offerIn heldByA .b (some 1) = none ∧
    (∀ h ∈ heldByA.holders, h.isOf .b 1 = false) := by decide

/-! ### Witnesses: memory transactions -/

/-- Port B holds region 0, the DRAM is READY and busy with a burst of port A. -/
def busy : State := tuned (holding (heldByB [])) fun q => { q with dram := .ready, bus := .burst .a false }

/-- The fields of `readBytes`. -/
def readFields : TxFields := ⟨0, 1, 0, 16, [], 0⟩

theorem test_hyp_checks_in_order : Reaches busy .b .read 1 readBytes ∧ (busy.fifo .b).length < 8 ∧
    readTx .read readBytes = some readFields ∧ lengthInRange .read 257 = false ∧ lengthInRange .read 256 = true ∧
    lookup two 0 = none ∧ lookup busy 0 = some (0, heldByB []) ∧ holderIn (record .free) .b (some 1) = none ∧
    holderIn (heldByB []) .b (some 1) = some (lease .b .exclusive) ∧ readFields.epoch = (heldByB []).epoch ∧
    readFields.offset + readFields.length ≤ (heldByB []).pageCount * 4096 ∧ busy.retentionHold = false ∧
    two.seq.dram = .uninitialized := by decide

theorem test_hyp_admitted : Reaches busy .b .read 1 readBytes ∧ busy.seq.dram = .ready ∧ busy.seq.bus ≠ .free ∧
    busy.seq.idle = false ∧ busy.fifo .b = [] ∧ (inDram busy (.powerDown .active)).seq.residency = none ∧
    (inDram busy (.selfRefresh .normal)).seq.dram = .selfRefresh .normal := by decide

/-- Port B's FIFO full. -/
def full : State := busy.setFifo .b (List.replicate 8 (job .read 1))

/-- Port B's admission slot holding a READ, its FIFO with room. -/
def heldRequest : State := busy.setSlot .b (some ⟨⟨.b, 1, some 1, .read⟩, 1, readBytes⟩)

theorem test_hyp_slot : Takes full .b 1 readBytes ∧ Admitted full .b .read ∧ (full.fifo .b).length = 8 ∧
    full.slot .b = none ∧ heldRequest.slot .b = some ⟨⟨.b, 1, some 1, .read⟩, 1, readBytes⟩ ∧
    (heldRequest.fifo .b).length < 8 ∧ lookup heldRequest 0 = some (0, heldByB []) ∧ lookup two 0 = none ∧
    acceptsReply (heldRequest.setLink .b { two.link .b with inFlight := (two.link .b).withEntry 1 (.taken (some 1)) })
      ⟨.b, 1, some 1, .read⟩ = true := by decide

/-- The DRAM READY and free, with one WRITE at the head of port B's FIFO. -/
def waiting (debt : Nat) : State :=
  tuned (two.setRegion 0 (some (heldByB [])) |>.setFifo .b [job .write 40]) fun q =>
    { q with dram := .ready, debt := debt }

/-- Heads eligible on ports A and B, a READ on A. -/
def rivals (last : Port) : State :=
  tuned ((waiting 0).setFifo .a [job .read 40]) fun q => { q with lastServed := last }

theorem test_hyp_rivals : eligible (rivals .a) .a = true ∧ eligible (rivals .a) .b = true ∧
    eligible (rivals .a) .c = false ∧ (Port.index .b + 3 - Port.index (rivals .a).seq.lastServed) % 4 = 0 ∧
    (Port.index .a + 3 - Port.index (rivals .a).seq.lastServed) % 4 = 3 ∧ (arbiter (rivals .a)).seq.lastServed = .b ∧
    (arbiter (rivals .d)).seq.lastServed = .a ∧
    (∀ x ∈ (rivals .a).fifo .a, leaseStands (rivals .a) .a x = true) := by decide

theorem test_hyp_arbiter : (waiting 8).seq.dram = .ready ∧ (waiting 8).seq.bus = .free ∧
    (waiting 8).seq.retEntry = none ∧ (waiting 8).fifo .b = [job .write 40] ∧ (job .write 40).offers = true ∧
    leaseStands (waiting 8) .b (job .write 40) = true ∧ (waiting 8).seq.debt = 8 ∧ (waiting 7).seq.debt < 8 ∧
    (waiting 7).seq.urgent = false ∧ ∀ q, q ≠ Port.b → (waiting 7).fifo q = [] := by
  refine ⟨by decide, by decide, by decide, by decide, by decide,
    by decide, by decide, by decide, by decide, fun q hq => ?_⟩
  cases q <;> first | exact absurd rfl hq | decide

/-- A burst of this entry in progress, at the head of port B's FIFO. -/
def bursting (e : Entry) : State := tuned (two.setFifo .b [e]) fun q => { q with dram := .ready, bus := .burst .b false }

theorem test_hyp_cover : 1 ≤ (job .fill 1).length ∧ (0 : Nat) < (job .fill 1).bursts ∧ (job .fill 256).bursts = 17 ∧
    (job .fill 65536).length ≤ 65536 := by decide

theorem test_hyp_stores : (bursting (job .write 40)).seq.bus = .burst .b false ∧
    (bursting (job .write 40)).fifo .b = [job .write 40] ∧
    (job .write 40).burstStart + (job .write 40).burstBytes ≤ dramSize ∧ (job .write 40).done < (job .write 40).bursts ∧
    1 ≤ (job .write 40).length ∧ (job .write 40).data.length = (job .write 40).length ∧ 0 < (job .write 40).burstBytes ∧
    0 < (job .fill 40).burstBytes := by decide

/-- The last of three bursts, and the second of three of a stopped FILL. -/
def lastOf (k : TxKind) : Entry := { job k 40 with done := 2, issued := true }
def stopped (o : StopOrder) : Entry := { job .fill 40 with done := 1, issued := true, stop := some o }

/-- Tag 1 of port B in flight under session 1, and a burst in progress. -/
def answering (e : Entry) : State :=
  (bursting e).setLink .b { two.link .b with inFlight := (two.link .b).withEntry 1 (.taken (some 1)) }

theorem test_hyp_ends : (answering (lastOf .read)).seq.bus = .burst .b false ∧
    (answering (lastOf .read)).fifo .b = [lastOf .read] ∧ (lastOf .read).done + 1 = (lastOf .read).bursts ∧
    (lastOf .read).burstStart + (lastOf .read).burstBytes ≤ dramSize ∧ (answering (lastOf .read)).isRunning = true ∧
    acceptsReply (answering (lastOf .fill)) ((lastOf .fill).replyTo .b) = true ∧ (lastOf .write).stop ≠ some .silent ∧
    (stopped .revoked).done + 1 < (stopped .revoked).bursts ∧ (stopped .silent).stop = some .silent ∧
    acceptsReply (answering (stopped .retaining)) ((stopped .retaining).replyTo .b) = true := by decide

/-! ### Witnesses: recovery and warm restart -/

/-- The reference LOCKED. -/
def locked (s : State) : State := { s with clock := ⟨.locked, none, 0⟩ }

theorem test_hyp_reinit : Reaches (inDram (locked two) .failed) .a .reinit 1 [] ∧ (locked two).clock.ref = .locked ∧
    engineEmpty (inDram two .ready) = true ∧ two.retentionHold = false ∧ (inDram two .ready).seq.bus ≠ .refresh ∧
    (tuned two fun q => { q with dram := .ready, bus := .refresh }).seq.bus = .refresh ∧
    (inDram two (.powerDown .active)).seq.residency = none ∧
    (tuned two fun q => { q with dram := .powerDown .active, residency := some clockwork }).seq.residency ≠ none ∧
    engineEmpty busy = true ∧ engineEmpty full = false ∧ two.seq.dram = .uninitialized := by decide

theorem test_hyp_resume : Reaches two .a .resume 1 [] ∧ two.clock.ref ≠ .locked ∧
    Reaches (inDram (locked two) (.retention .extended .refLost)) .a .resume 1 [] ∧
    Reaches two .a .clearSuspect 1 [] ∧ two.seq.condition ≠ .suspect ∧
    (tuned two fun q => { q with condition := .suspect }).seq.condition = .suspect := by decide

theorem test_hyp_restart_again : ({ two with restart := .awaitingRelease } : State).resetPin = .high ∧
    ({ two with restart := .begun .command } : State).resetPin = .high := by decide

theorem test_hyp_restarts : Reaches two .a .restart 1 [] ∧ (two.link .a).tx = none ∧ (two.link .a).responses = [] ∧
    ((sending two false).link .b).tx ≠ none ∧ two.resetPin = .high ∧ two.restart = .running ∧
    (inDram two .failed).seq.dram = .failed := by decide

/-- A warm restart begun, with a retention entry running or not. -/
def begun (cause : ResetCause) (pin : Level) (entry : Option RetReason) : State :=
  { tuned two (fun q => { q with dram := .ready, retEntry := entry }) with restart := .begun cause, resetPin := pin }

theorem test_hyp_reset : (begun .pin .low none).restart = .begun .pin ∧ anyStarted (begun .pin .low none) = false ∧
    (begun .command .low (some .restart)).seq.retEntry ≠ none ∧ (begun .pin .high none).resetPin = .high ∧
    ({ two with resetPin := .low } : State).restart ≠ .awaitingRelease ∧
    ({ two with resetPin := .low, restart := .awaitingRelease } : State).clock.ref = .locking := by decide

/-! ### Witnesses: the Memory Sequencer -/

/-- A refresh in progress. -/
def refreshing (d : DramState) (debt : Nat) (urgent : Bool) (band : Band) : State :=
  { tuned two (fun q => { q with dram := d, debt := debt, urgent := urgent, bus := .refresh }) with
    thermal := ⟨some 20, band, some clockwork, true⟩ }

theorem test_hyp_no_fifo : ∀ p, two.fifo p = [] := fun p => by cases p <;> decide

theorem test_hyp_refresh : (refreshing .ready 8 true .hot).seq.bus = .refresh ∧
    (refreshing .ready 8 true .hot).seq.retEntry = none ∧ (refreshing .ready 1 false .warm).seq.debt = 0 + 1 ∧
    (refreshing (.enteringSr .selfRefresh .payDebt) 0 false .normal).thermal.band = .normal ∧
    (refreshing (.enteringSr .selfRefresh .payDebt) 0 false .warm).seq.debt = 0 ∧
    (refreshing (.enteringSr .selfRefresh .payDebt) 0 false .unknown).thermal.band = .unknown ∧
    (∀ p, (refreshing .ready 1 false .warm).fifo p = []) :=
  ⟨by decide, by decide, by decide, by decide, by decide, by decide,
    fun p => by cases p <;> decide⟩

theorem test_hyp_refresh_for_retention :
    (tuned (refreshing .ready 0 false .warm) fun q => { q with retEntry := some .refLost }).seq.retEntry ≠ none ∧
    anyStarted (refreshing .ready 0 false .warm) = false ∧
    (refreshing (.enteringSr .retention .payDebt) 0 false .hot).clock.ref ≠ .locked ∧
    (refreshing (.enteringSr .selfRefresh .payDebt) 0 false .normal).thermal.band = .normal ∧
    (tuned (refreshing (.enteringSr .retention .payDebt) 0 false .hot) fun q =>
      { q with retEntry := some .restart }).seq.retEntry = some .restart ∧
    (refreshing (.initializing .awaitRefresh) 0 false .normal).seq.dram = .initializing .awaitRefresh := by decide

theorem test_hyp_tick : busy.seq.dram = .ready ∧ busy.seq.bus ≠ .free ∧ busy.seq.debt < 8 ∧
    (refreshing .ready 8 true .hot).seq.debt = 8 ∧ two.seq.dram = .uninitialized ∧
    (inDram two (.powerDown .active)).seq.debt < 8 ∧
    (tuned two fun q => { q with dram := .powerDown .active, debt := 5 }).params.refreshHighWater ≤ 5 + 1 ∧
    4 + 1 < two.params.refreshHighWater := by decide

/-- Idle in READY with both idle timers running, a bank OPEN, and this band. -/
def idling (band : Band) : State :=
  { tuned two (fun q => { q with
      dram := .ready, idle := true, pdTimer := some clockwork, srTimer := some clockwork
      banks := allClosed.set 0 (.opened 3) }) with
    thermal := ⟨some 20, band, some clockwork, true⟩ }

theorem test_hyp_power_down : (idling .warm).seq.pdTimer = some clockwork ∧ (idling .warm).seq.dram = .ready ∧
    (idling .warm).seq.srTimer = some clockwork ∧ (idling .warm).thermal.band.cool = true ∧
    (idling .hot).thermal.band.cool = false ∧ anyBankOpen (idling .warm).seq = true ∧
    (inDram (idling .hot) (.powerDown .active)).seq.residency = none ∧ (∀ p, (idling .warm).fifo p = []) :=
  ⟨by decide, by decide, by decide, by decide, by decide, by decide,
    by decide, fun p => by cases p <;> decide⟩

/-- In POWER_DOWN before the end of the residency, with a kept head. -/
def resident (d : DramState) (kept : List PdCause) : State :=
  tuned (waiting 0) fun q => { q with dram := d, residency := some clockwork, kept := kept }

theorem test_hyp_residency : (resident (.powerDown .active) []).seq.residency = some clockwork ∧
    (resident (.powerDown .active) [.head .b 1]).seq.kept = [.head .b (job .write 40).tag] ∧
    (resident (.powerDown .active) [.head .b 1]).fifo .b = [job .write 40] ∧
    eligible (resident (.powerDown .active) [.head .b 1]) .b = true ∧
    (tuned (resident (.powerDown .active) []) fun q => { q with retEntry := some .refLost }).seq.retEntry ≠ none ∧
    (resident (.powerDown .active) []).seq.retEntry = none ∧
    ({ resident (.powerDown .active) [.srExpiry] with thermal := ⟨none, .warm, none, true⟩ } : State).thermal.band.cool
      = true ∧
    (resident (.initializing (.residency .active)) []).seq.dram = .initializing (.residency .active) ∧
    (∀ p, ((resident (.powerDown .active) []).setFifo .b []).fifo p = []) :=
  ⟨by decide, by decide, by decide, by decide, by decide, by decide, by decide, by decide,
    fun p => by cases p <;> decide⟩

/-- R139: of a head that is gone, an expiry and a head that came after it, the expiry determines the exit. -/
theorem test_kept_in_order :
    (after .pdResidencyEnd
      { resident (.powerDown .active) [.head .a 1, .srExpiry, .head .b 1] with
        thermal := ⟨none, .warm, none, true⟩ }).seq.dram
      = .enteringSr .selfRefresh (.leavePowerDown .active) ∧
    (after (.read .b 1 readBytes)
      (tuned (inDram busy (.powerDown .active)) fun q =>
        { q with bus := .free, residency := some clockwork, kept := [.head .a 1, .srExpiry] })).seq.kept
      = [.srExpiry, .head .b 1] := by decide

/-- With a debt of 1, a bank OPEN and no transaction. -/
def indebted (d : DramState) : State := tuned (idling .warm) fun q => { q with dram := d, debt := 1 }

theorem test_hyp_exits : (indebted (.waking .ready (.powerDown .active))).seq.retEntry = none ∧
    (indebted (.waking .ready (.powerDown .active))).seq.bus = .free ∧ (indebted .ready).seq.debt = 0 + 1 ∧
    anyBankOpen (indebted (.enteringSr .selfRefresh (.leavePowerDown .active))).seq = true ∧
    (indebted (.waking .selfRefresh .selfRefresh)).seq.dram = .waking .selfRefresh .selfRefresh ∧
    (∀ p, (indebted .ready).fifo p = []) :=
  ⟨by decide, by decide, by decide, by decide, by decide,
    fun p => by cases p <;> decide⟩

/-- Training after a REINIT on tag 1 of port A. -/
def trainingState : State :=
  tuned (two.setLink .a { two.link .a with inFlight := (two.link .a).withEntry 1 (.taken (some 1)) }) fun q =>
    { q with dram := .initializing .training, reinit := some ⟨.a, 1, some 1, .reinit⟩ }

theorem test_hyp_init : (inDram two (.initializing .resetHold)).seq.dram = .initializing .resetHold ∧
    (inDram two (.initializing .modeSetting)).seq.dram = .initializing .modeSetting ∧
    trainingState.seq.dram = .initializing .training ∧ trainingState.seq.bus = .free ∧
    trainingState.seq.retEntry = none ∧ 0 < trainingState.params.srIdleMs ∧
    acceptsReply trainingState ⟨.a, 1, some 1, .reinit⟩ = true ∧ (∀ p, trainingState.fifo p = []) :=
  ⟨by decide, by decide, by decide, by decide, by decide, by decide,
    by decide, fun p => by cases p <;> decide⟩

/-- Drained, a retention entry running. -/
def drained (debt : Nat) (banks : Vector Bank 8) : State :=
  tuned two fun q => { q with dram := .ready, retEntry := some .refLost, debt := debt, banks := banks }

theorem test_hyp_retention : (drained 1 allClosed).seq.dram = .ready ∧ (drained 1 allClosed).seq.bus = .free ∧
    (drained 1 allClosed).seq.retEntry = some .refLost ∧ anyStarted (drained 1 allClosed) = false ∧
    anyBankOpen (drained 1 (allClosed.set 0 (.opened 3))).seq = true ∧ anyBankOpen (drained 1 allClosed).seq = false ∧
    (drained 0 allClosed).seq.debt = 0 ∧ (drained 0 allClosed).clock.ref ≠ .locked ∧
    (drained 0 allClosed).thermal.band ≠ .hot ∧ two.clock.ref = .locking ∧ (locked busy).clock.ref = .locked ∧
    (locked busy).seq.dram = .ready ∧ (locked busy).seq.bus ≠ .free ∧ (locked asleep).seq.dram = .selfRefresh .normal ∧
    (locked trainingState).seq.dram = .initializing .training ∧
    acceptsReply (locked trainingState) ⟨.a, 1, some 1, .reinit⟩ = true ∧ entersRetention (.waking .ready .selfRefresh) = true ∧
    (locked (inDram two (.retention .normal .refLost))).isRunning = true ∧
    (resident (.powerDown .active) []).seq.residency ≠ none ∧ (inDram two (.powerDown .active)).seq.residency = none ∧
    (locked (answering (job .read 40))).fifo .b = [job .read 40] ∧ (job .read 40).started = false ∧
    acceptsReply (locked (answering (job .read 40))) ((job .read 40).replyTo .b) = true := by decide

/-- The READY DRAM idle at a moment, the reference LOCKED and its last edge at 0. -/
def readyAt (now : Nat) : State :=
  tuned { locked busy with now := now } fun q => { q with bus := .free, idle := true, pdTimer := some clockwork }

/-- A READ of port B admitted to it. -/
def admittedAt (now : Nat) : State := after (.read .b 1 readBytes) (readyAt now)

/-- R117: the admission's event starts nothing; the next time that passes does, and so does a burst that completes. -/
theorem test_admission_starts_nothing : (admittedAt 0).seq.bus = .free ∧ (admittedAt 0).seq.idle = false ∧
    (admittedAt 0).seq.pdTimer = none ∧ ((admittedAt 0).fifo .b).map Entry.started = [false] ∧
    ((admittedAt 0).reach 1).seq.bus = .burst .b false ∧
    (((after .burstComplete (admittedAt 0)).link .b).cached 1).isSome = true := by decide

/-- R117: a reference loss at the moment of an admission finds the transaction not started; a later one does not. -/
theorem test_loss_at_admission : (after .lossWindowExpiry (admittedAt 5000)).fifo .b = [] ∧
    ((after .lossWindowExpiry (admittedAt 5000)).link .b).cached 1 = some ⟨0x91, 1, [0x39]⟩ ∧
    ((after .lossWindowExpiry (admittedAt 0)).fifo .b).map Entry.started = [true] := by decide

/-- R117: a revocation at the moment of an admission removes the transaction. -/
theorem test_revoke_at_admission : (after (.revoke .a 2 [0]) (admittedAt 0)).fifo .b = [] ∧
    ((after (.revoke .a 2 [0]) (admittedAt 0)).link .b).cached 1 = some ⟨0x91, 1, [0x33]⟩ := by decide

/-- A WRITE of port B that waits to start. -/
def writeWaits : State := (readyAt 0).setFifo .b [job .write 40]

theorem test_hyp_start : writeWaits.now < writeWaits.clock.lastEdge + 4000 ∧ writeWaits.seq.dram = .ready ∧
    writeWaits.seq.bus = .free ∧ writeWaits.seq.retEntry = none ∧ writeWaits.seq.debt = 0 ∧
    writeWaits.clock.ref = .locked ∧ eligible writeWaits .b = true ∧ writeWaits.fifo .a = [] ∧
    writeWaits.fifo .c = [] ∧ writeWaits.fifo .d = [] ∧ (job .write 40).kind = .write ∧
    Reaches (readyAt 0) .b .read 1 readBytes ∧ (readyAt 0).seq.idle = true ∧ (readyAt 0).fifo .b = [] ∧
    (readyAt 5000).clock.lastEdge + 4000 ≤ (readyAt 5000).now ∧ anyEligible (readyAt 0) = false ∧
    writeWaits.pending = [] ∧ anyEligible writeWaits = true := by decide

/-! ### Witnesses: temperature and clock -/

theorem test_hyp_bands : (refreshing .ready 0 false .normal).thermal.sampleTimer = some clockwork ∧
    (-40 : Int) ≤ 105 ∧ (105 : Int) ≤ 150 ∧ ((105 : Nat) : Int) ≤ 105 ∧ two.params.hotThreshold = 105 ∧
    two.params.warmThreshold = 85 ∧ (82 : Int) ≤ ((85 : Nat) : Int) - 3 ∧ ¬ (83 : Int) ≤ ((85 : Nat) : Int) - 3 ∧
    (102 : Int) ≤ ((105 : Nat) : Int) - 3 ∧ ((105 : Nat) : Int) - 3 < 103 := by decide

/-- The table of section 9.2 at its boundaries, for the default thresholds 85 and 105. -/
theorem test_band_boundaries :
    bandAfter 85 105 .normal 105 = .hot ∧ bandAfter 85 105 .normal 85 = .warm ∧ bandAfter 85 105 .normal 84 = .normal ∧
      bandAfter 85 105 .warm 82 = .normal ∧ bandAfter 85 105 .warm 83 = .warm ∧ bandAfter 85 105 .hot 103 = .hot ∧
      bandAfter 85 105 .hot 102 = .warm ∧ bandAfter 85 105 .hot 82 = .normal ∧ bandAfter 85 105 .unknown 84 = .normal := by
  decide

theorem test_hyp_no_sample : ({ two with resetPin := .low } : State).resetPin = .low ∧ two.resetPin = .high := by decide

theorem test_hyp_sensor : two.thermal.sampleTimer = some ⟨1000000, 1000000⟩ ∧ two.thermal.band = .unknown ∧
    (-41 : Int) < -40 ∧ (150 : Int) < 151 := by decide

theorem test_hyp_lock : ({ two with clock := ⟨.lost, none, 0⟩ } : State).clock.ref = .lost ∧
    two.restart ≠ .awaitingRelease ∧ two.clock.ref ≠ .lost ∧ two.clock.ref = .locking ∧
    two.clock.lockTimer = some ⟨250000, 250000⟩ ∧ two.isRunning = true ∧
    ({ two with restart := .begun .command } : State).isRunning = false ∧ (two.session .b).live = true ∧
    ((sending two false).link .b).tx ≠ none ∧ (two.notices .b).queue.length < 16 ∧ two.seq.dram = .uninitialized ∧
    two.params.resumePolicy = .auto ∧
    ({ two.params with resumePolicy := .supervised } : Params).resumePolicy = .supervised ∧
    (inDram two (.retention .normal .restart)).seq.dram = .retention .normal .restart := by decide

end Sys2Proof.Tests
end

section
/-! PROOFS. RESEND (R13): what the payload names, what each state of the named tag answers, and the copy of a cached
reply put in line. -/

namespace Sys2Proof.Machine

/-! ### The good frame's report, on the Link Unit -/

/-- On the port's Link Unit the report only returns the bad-frame count to 0 (R10, step 1). -/
theorem reportGood_link (s : State) (p : Port) : (reportGood s p).link p = { s.link p with badFrames := 0 } := by
  unfold reportGood
  dsimp only
  split <;> simp

theorem reportGood_port_ne (s : State) {p q : Port} (h : q ≠ p) : (reportGood s p).port q = s.port q := by
  unfold reportGood
  dsimp only
  split
  · exact (port_setPort_ne _ _ h).trans (port_setPort_ne _ _ h)
  · exact port_setPort_ne _ _ h
  · exact port_setPort_ne _ _ h

@[simp] theorem reportGood_cached (s : State) (p : Port) (u : Tag) :
    ((reportGood s p).link p).cached u = (s.link p).cached u := by rw [reportGood_link]; rfl

@[simp] theorem reportGood_replyWaits (s : State) (p : Port) (f : Frame) :
    replyWaits ((reportGood s p).link p) f = replyWaits (s.link p) f := by rw [reportGood_link]; rfl

@[simp] theorem reportGood_outgoing (s : State) (p : Port) : outgoing (reportGood s p) p = outgoing s p := by
  unfold outgoing
  rw [reportGood_link]

/-! ### A frame put at the end of the response list -/

/-- A frame at the end of a port's response list, before the arbiter chooses (R15). -/
def appendResponse (s : State) (p : Port) (r : Response) : State :=
  s.setLink p { s.link p with responses := (s.link p).responses ++ [r] }

theorem arbitrate_appendResponse_port_ne (s : State) {p q : Port} (r : Response) (h : q ≠ p) :
    (arbitrate (appendResponse s p r) p).port q = s.port q :=
  (arbitrate_port_ne _ h).trans (port_setPort_ne _ _ h)

theorem arbitrate_appendResponse_offPorts (s : State) (p : Port) (r : Response) :
    OffPorts s (arbitrate (appendResponse s p r) p) :=
  (setLink_offPorts _ _ _).trans (arbitrate_offPorts _ _)

/-- The appended frame leaves last, and on the port only the response list and the transmission in progress can
differ: a response that waits keeps the arbiter from taking a notice (R15). -/
theorem arbitrate_appendResponse (s : State) (p : Port) (r : Response) :
    outgoing (arbitrate (appendResponse s p r) p) p = outgoing s p ++ [r.frame] ∧
      { (arbitrate (appendResponse s p r) p).link p with
        responses := (s.link p).responses, tx := (s.link p).tx } = s.link p ∧
      OffLink s (arbitrate (appendResponse s p r) p) p := by
  have hlink : (appendResponse s p r).link p = { s.link p with responses := (s.link p).responses ++ [r] } :=
    link_setLink_self _ _ _
  have hwaits : ((appendResponse s p r).link p).responses ≠ [] := by simp [hlink]
  obtain ⟨hout, hrest, hoff⟩ := arbitrate_waiting _ p hwaits
  refine ⟨?_, ?_, ?_⟩
  · rw [hout]
    simp [outgoing, hlink]
  · have := congrArg (fun l : Link => { l with responses := (s.link p).responses, tx := (s.link p).tx }) hrest
    rw [hlink] at this
    exact this
  · simpa [OffLink, appendResponse] using hoff

/-! ### What a RESEND's payload names -/

theorem resendTag_eq_none {pl : List Byte} (h : ∀ b, pl = [b] → 8 ≤ b.toNat) : resendTag pl = none := by
  match pl with
  | [] => rfl
  | [b] => exact dif_neg (Nat.not_lt.mpr (h b rfl))
  | _ :: _ :: _ => rfl

theorem resendTag_singleton {b : Byte} {u : Tag} (h : b.toNat = u.val) : resendTag [b] = some u := by
  have hlt : b.toNat < 8 := h ▸ u.isLt
  exact (dif_pos hlt).trans (congrArg some (Fin.ext h))

/-! ### The answers by the state of the named tag -/

section
variable {s : State} {p : Port} {u : Tag}

theorem resendReply_taken {n : Option SessNo} (h : (s.link p).entry u = .taken n) :
    resendReply s p u = refuse s p u .inFlight := by
  simp only [resendReply, h]

theorem resendReply_empty (h : (s.link p).entry u = .free) (hc : (s.link p).cached u = none) :
    resendReply s p u = refuse s p u .noReply := by
  simp only [resendReply, h, hc]

theorem resendReply_waiting {f : Frame} (h : (s.link p).entry u = .free) (hc : (s.link p).cached u = some f)
    (hw : replyWaits (s.link p) f = true) : resendReply s p u = s := by
  simp only [resendReply, h, hc, hw, if_true]

theorem resendReply_copy {f : Frame} (h : (s.link p).entry u = .free) (hc : (s.link p).cached u = some f)
    (hw : replyWaits (s.link p) f = false) :
    resendReply s p u = arbitrate (appendResponse s p ⟨.reply, f, false⟩) p := by
  simp only [resendReply, h, hc, hw, Bool.false_eq_true, if_false]
  rfl

end

/-! ### RESEND as a command -/

/-- A RESEND that is heard is reported as a good frame, and then answered if it names a tag (R10, R13). -/
theorem exec_resend_heard {s : State} {p : Port} (tb : Byte) {pl : List Byte} (h : Hears s p) (hl : pl.length ≤ 320) :
    exec (.resend p tb pl) s =
      .next ((resendTag pl).elim (reportGood s p) (resendReply (reportGood s p) p)) := by
  have hexec : exec (.resend p tb pl) s = execResend p tb pl s := rfl
  rw [hexec, execResend, receive_heard s p _ _ h hl]
  cases resendTag pl <;> rfl

/-- Settles O18: the payload's reading decides whether there is an answer, the named tag's entry and cache slot decide
which. -/
theorem resendFollowsTheReplyCache : Obligations.ResendFollowsTheReplyCache := by
  intro p tb pl s hh hl
  have hexec := exec_resend_heard tb hh hl
  refine ⟨fun hbad => by simpa [resendTag_eq_none hbad] using hexec, ?_⟩
  rintro b u rfl hb
  have hnamed : exec (.resend p tb [b]) s = .next (resendReply (reportGood s p) p u) := by
    simpa [resendTag_singleton hb] using hexec
  refine ⟨fun n ht => ?_, fun hf hc => ?_, fun f hf hc => ⟨fun hw => ?_, fun hw => ?_⟩⟩
  · rw [resendReply_taken ((reportGood_entry s p u).trans ht)] at hnamed
    exact ⟨_, hnamed, refused_handRefusal _ _ _ _⟩
  · rw [resendReply_empty ((reportGood_entry s p u).trans hf) ((reportGood_cached s p u).trans hc)] at hnamed
    exact ⟨_, hnamed, refused_handRefusal _ _ _ _⟩
  · rwa [resendReply_waiting ((reportGood_entry s p u).trans hf) ((reportGood_cached s p u).trans hc)
      ((reportGood_replyWaits s p f).trans hw)] at hnamed
  · rw [resendReply_copy ((reportGood_entry s p u).trans hf) ((reportGood_cached s p u).trans hc)
      ((reportGood_replyWaits s p f).trans hw)] at hnamed
    obtain ⟨hout, hlink, hoff⟩ := arbitrate_appendResponse (reportGood s p) p ⟨.reply, f, false⟩
    refine ⟨_, hnamed, arbitrate_appendResponse_offPorts _ _ _, fun q hq => ?_, hoff, ?_, ?_⟩
    · exact (arbitrate_appendResponse_port_ne _ _ hq).trans (reportGood_port_ne s hq)
    · simpa [reportGood_link] using hlink
    · rw [hout, reportGood_outgoing]

end Sys2Proof.Machine
end

section
/-! PROOFS. GET_PARAM (R36): what an admitted request with readable fields runs, what the Parameter Store answers by
the id, and the command that carries it. -/

namespace Sys2Proof.Machine

/-! ### An admitted request whose fields are read -/

/-- A request that passes every check, flag bits included, is served on the fields its reader finds. -/
theorem exec_reaches {α : Type} {s : State} {p : Port} {k : Kind} {tb : Byte} {pl : List Byte}
    {rd : List Byte → Option α} {act : State → Request → α → State} {f : α} (h : Reaches s p k tb pl)
    (howner : ownerOf k = fun t q => withFields t q rd (act t q)) (hread : rd pl = some f) :
    exec (requestCommand k p tb pl) s = .next (act (afterTake s p tb) ⟨replyFor s p k tb, tb, pl⟩ f) := by
  obtain ⟨htakes, hadmitted, hflags⟩ := h
  have hfields := (fields_unflagged (replyFor s p k tb) tb pl rd hflags).trans hread
  rw [exec_admitted s p k tb pl htakes hadmitted, howner]
  exact withFields_some _ _ rd _ f hfields

/-! ### What the stored parameters answer -/

theorem serveGetParam_unknown (s : State) (q : Request) {id : Byte} (h : paramOf id = none) :
    serveGetParam s q id = answer s q.replyTo .badParam := by
  simp only [serveGetParam, h]

theorem serveGetParam_known (s : State) (q : Request) {id : Byte} {x : ParamId} (h : paramOf id = some x) :
    serveGetParam s q id = reply s q.replyTo ([0x00, id] ++ le16 (s.params.value x)) := by
  simp only [serveGetParam, h]
  rfl

/-! ### GET_PARAM as a command -/

/-- Settles O28: the id decides between BAD_PARAM and the stored value, and taking the request has changed no
parameter. -/
theorem getParamReturnsTheStoredValue : Obligations.GetParamReturnsTheStoredValue := by
  intro p tb id s h
  have hexec : exec (.getParam p tb [id]) s =
      .next (serveGetParam (afterTake s p tb) ⟨replyFor s p .getParam tb, tb, [id]⟩ id) :=
    exec_reaches h rfl rfl
  refine ⟨fun hunknown => ?_, fun x hknown => ?_⟩
  · rw [serveGetParam_unknown _ _ hunknown] at hexec
    exact answersStatus_of_answer _ s p .getParam tb .badParam hexec
  · rw [serveGetParam_known _ _ hknown, afterTake_params] at hexec
    exact answers_of_reply _ s p .getParam tb _ hexec

end Sys2Proof.Machine
end

section
/-! PROOFS. Region ids (R39): what an id on the wire names, and the NO_REGION of every request whose id names no
defined region. -/

namespace Sys2Proof.Machine

/-! ### What a region id names -/

theorem lookup_of_lt (s : State) {b : Byte} (hb : b.toNat < 32) :
    lookup s b = (s.region ⟨b.toNat, hb⟩).map fun r => (⟨b.toNat, hb⟩, r) := dif_pos hb

theorem lookup_of_ge (s : State) {b : Byte} (hb : ¬ b.toNat < 32) : lookup s b = none := dif_neg hb

/-- An id names the record in the slot of its own number, and an id above 31 names none (R39). -/
theorem lookup_eq_some_iff {s : State} {b : Byte} {i : RegionId} {r : Region} :
    lookup s b = some (i, r) ↔ b.toNat = i.val ∧ s.region i = some r := by
  constructor
  · intro hl
    by_cases hb : b.toNat < 32
    · rw [lookup_of_lt s hb, Option.map_eq_some_iff] at hl
      obtain ⟨x, hx, heq⟩ := hl
      cases heq
      exact ⟨rfl, hx⟩
    · rw [lookup_of_ge s hb] at hl
      cases hl
  · rintro ⟨hid, hr⟩
    have hb : b.toNat < 32 := hid ▸ i.isLt
    have hi : (⟨b.toNat, hb⟩ : RegionId) = i := Fin.ext hid
    rw [lookup_of_lt s hb, hi, hr]
    rfl

/-! ### Owners that look the region up -/

theorem withRegion_none {s : State} (q : Request) {b : Byte} (act : RegionId → Region → State)
    (h : lookup s b = none) : withRegion s q b act = answer s q.replyTo .noRegion := by
  simp only [withRegion, h]

/-- A request whose owner looks up the region its fields name is answered NO_REGION where that is none, whatever the
owner does with a region. -/
theorem answersNoRegion_of_owner {α : Type} {s : State} {p : Port} {k : Kind} {tb : Byte} {pl : List Byte}
    {rd : List Byte → Option α} {idOf : α → Byte} {act : State → Request → α → RegionId → Region → State} {f : α}
    (howner : ownerOf k = fun t q => withFields t q rd fun f => withRegion t q (idOf f) (act t q f))
    (h : Reaches s p k tb pl) (hread : rd pl = some f) (hl : lookup s (idOf f) = none) :
    AnswersStatus (requestCommand k p tb pl) s (replyFor s p k tb) .noRegion := by
  have hexec := exec_reaches h howner hread
  rw [withRegion_none _ _ ((afterTake_lookup s p tb _).trans hl)] at hexec
  exact answersStatus_of_answer _ s p k tb .noRegion hexec

/-- The owners of the requests whose payload is a region id alone look that region up. -/
theorem ownerOf_regionId {k : Kind}
    (hk : k ∈ [Kind.deleteRegion, .queryRegion, .accept, .withdraw, .release, .revoke, .unfence]) :
    ∃ act : State → Request → Byte → RegionId → Region → State,
      ownerOf k = fun t q => withFields t q readOne fun b => withRegion t q b (act t q b) := by
  simp only [List.mem_cons, List.not_mem_nil, or_false] at hk
  rcases hk with rfl | rfl | rfl | rfl | rfl | rfl | rfl <;> exact ⟨_, rfl⟩

/-! ### Transactions -/

theorem ownerOf_txKind (k : TxKind) : ownerOf k.kind = fun t q => serveTx t k q := by
  cases k <;> rfl

/-- With room in the FIFO an admitted transaction request is checked at once (R104). -/
theorem exec_txRequest {s : State} {p : Port} {k : TxKind} {tb : Byte} {pl : List Byte} (h : Reaches s p k.kind tb pl)
    (hroom : (s.fifo p).length < 8) :
    exec (requestCommand k.kind p tb pl) s = .next (takeTx (afterTake s p tb) k ⟨replyFor s p k.kind tb, tb, pl⟩) := by
  obtain ⟨htakes, hadmitted, -⟩ := h
  have hroom' : ((afterTake s p tb).fifo p).length < 8 := by rwa [afterTake_fifo]
  rw [exec_admitted s p k.kind tb pl htakes hadmitted, ownerOf_txKind]
  exact if_pos hroom'

/-- A transaction request of a length in range is answered NO_REGION as its first check on the region (R101). -/
theorem takeTx_none {s : State} {k : TxKind} {q : Request} {f : TxFields} (hf : q.fields (readTx k) = some f)
    (hlen : lengthInRange k f.length = true) (hl : lookup s f.id = none) :
    takeTx s k q = answer s q.replyTo .noRegion := by
  simp only [takeTx, hf, hlen, hl, if_true]

theorem txAnswersNoRegion {s : State} {p : Port} {k : TxKind} {tb : Byte} {pl : List Byte} {f : TxFields}
    (h : Reaches s p k.kind tb pl) (hroom : (s.fifo p).length < 8) (hread : readTx k pl = some f)
    (hlen : lengthInRange k f.length = true) (hl : lookup s f.id = none) :
    AnswersStatus (requestCommand k.kind p tb pl) s (replyFor s p k.kind tb) .noRegion := by
  have ⟨_, _, hflags⟩ := h
  have hfields := (fields_unflagged (replyFor s p k.kind tb) tb pl (readTx k) hflags).trans hread
  have hexec := exec_txRequest h hroom
  rw [takeTx_none hfields hlen ((afterTake_lookup s p tb _).trans hl)] at hexec
  exact answersStatus_of_answer _ s p k.kind tb .noRegion hexec

/-- Settles O22: an id names its slot's record; the owners of the requests that name a region look it up before all
else, those of transactions after the length. -/
theorem undefinedRegionsAreAnsweredNoRegion : Obligations.UndefinedRegionsAreAnsweredNoRegion := by
  refine ⟨fun s b i r => lookup_eq_some_iff, fun p tb b s hl => ⟨fun k hk h => ?_, fun m h => ?_, ?_, ?_⟩⟩
  · obtain ⟨act, howner⟩ := ownerOf_regionId hk
    exact answersNoRegion_of_owner howner h rfl hl
  · exact answersNoRegion_of_owner (k := .claim) (f := ⟨b, m⟩) rfl h rfl hl
  · rintro pl f h hread rfl
    exact answersNoRegion_of_owner (k := .alterRegion) rfl h hread hl
  · rintro k pl f h hroom hread rfl hlen
    exact txAnswersNoRegion h hroom hread hlen hl

end Sys2Proof.Machine
end

section
/-! PROOFS. Relations that see no table by port: what they must respect beyond that, said once, and what steps keep
through them: the waiting commands, the DRAM's canonical form and the region table's shape. -/

namespace Sys2Proof.Machine

/-- A relation between states that holds wherever only the tables by port differ, and across every other primitive
update of the hub. -/
structure PortBlind (R : State → State → Prop) : Prop where
  trans : ∀ {s t u}, R s t → R t u → R s u
  offPorts : ∀ {s t}, OffPorts s t → R s t
  reports : ∀ s x, R s { s with reports := x }
  region : ∀ s id r r', s.region id = some r → r'.basePage = r.basePage → r'.pageCount = r.pageCount →
    R s (s.setRegion id (some r'))
  defined : ∀ s f i r, s.region i = none → defineRecord s f = .inr r → R s (s.setRegion i (some r))
  deleted : ∀ s i, R s (s.setRegion i none)
  seq : ∀ s q, R s (s.setSeq q)
  unwarranted : ∀ s, R s { s with memory := s.memory.unwarranted }
  losingCharge : ∀ s, R s { s with memory := s.memory.losingCharge }
  withPatterns : ∀ s, R s { s with memory := s.memory.withPatterns }
  stored : ∀ s e, e.burstStart + e.burstBytes ≤ dramSize → R s { s with memory := storeBurst s.memory e }
  hold : ∀ s x, R s { s with retentionHold := x }
  restart : ∀ s x, R s { s with restart := x }
  now : ∀ s x, R s { s with now := x }
  pin : ∀ s x, R s { s with resetPin := x }
  params : ∀ s x, R s { s with params := x }
  thermal : ∀ s x, R s { s with thermal := x }
  clock : ∀ s x, R s { s with clock := x }
  powered : ∀ s g x, R s (State.powerOn s.now g x s.pending)
  blocks : ∀ s c, R s (resetBlocks s c)
  released : ∀ s x, R s (release s x)

namespace PortBlind

variable {R : State → State → Prop} (h : PortBlind R)
include h

theorem closedWide : ClosedWide R where
  refl s := h.offPorts (OffPorts.refl s)
  trans := h.trans
  handReply _ _ _ _ _ := h.offPorts (handReply_offPorts _ _ _ _ _)
  post _ _ _ := h.offPorts (post_offPorts _ _ _)
  fifo _ _ _ := h.offPorts (setFifo_offPorts _ _ _)
  slot _ _ _ := h.offPorts (setSlot_offPorts _ _ _)
  reports := h.reports
  region := h.region
  quiet s x := h.seq s { s.seq with srRef := x }
  seq := h.seq
  unwarranted := h.unwarranted
  losingCharge := h.losingCharge
  withPatterns := h.withPatterns
  hold := h.hold
  restart := h.restart
  lost _ _ _ := h.offPorts (setPort_offPorts _ _ _)

theorem badFrame (s : State) (p : Port) (c : NakCause) : R s (Machine.badFrame s p c) := by
  have counted : R s (handRefusal (s.setLink p { s.link p with badFrames := (s.link p).badFrames + 1 }) p .nak
      (nakFrame ((s.link p).badFrames + 1) c)) :=
    h.offPorts ((setLink_offPorts _ _ _).trans (handRefusal_offPorts _ _ _ _))
  unfold Machine.badFrame
  dsimp only
  split
  · exact counted
  · refine h.trans counted ?_
    split
    · exact h.trans (h.offPorts (setLink_offPorts _ _ _)) (h.closedWide.loseEvent _ _ _)
    · exact h.offPorts (setLink_offPorts _ _ _)

theorem closedExec : ClosedExec R where
  toClosedWide := h.closedWide
  now := h.now
  pin := h.pin
  params := h.params
  thermal := h.thermal
  clock := h.clock
  session _ _ _ := h.offPorts (setSession_offPorts _ _ _)
  opened _ _ _ _ _ _ := h.offPorts (setPort_offPorts _ _ _)
  closed _ _ := h.offPorts (setPort_offPorts _ _ _)
  tables _ _ _ _ := h.offPorts (setLink_offPorts _ _ _)
  heard _ _ := h.offPorts (setLink_offPorts _ _ _)
  counted := h.badFrame
  fed _ _ _ := h.offPorts (setLink_offPorts _ _ _)
  hunted _ _ := h.offPorts (setLink_offPorts _ _ _)
  credit _ _ _ _ := h.offPorts (setLink_offPorts _ _ _)
  sent _ _ := h.offPorts (setLink_offPorts _ _ _)
  resent _ _ _ := h.offPorts (setLink_offPorts _ _ _)
  arbitrated _ _ := h.offPorts (arbitrate_offPorts _ _)
  refused _ _ _ _ := h.offPorts (refuse_offPorts _ _ _ _)
  defined := h.defined
  deleted := h.deleted
  stored := h.stored
  powered := h.powered
  blocks := h.blocks
  released := h.released

end PortBlind

/-! ### The waiting commands -/

/-- Every operation of a command leaves the queue of waiting commands alone. -/
theorem portBlind_pending : PortBlind fun s t => t.pending = s.pending where
  trans h g := g.trans h
  offPorts h := h.pending
  reports _ _ := rfl
  region _ _ _ _ _ _ _ := rfl
  defined _ _ _ _ _ _ := rfl
  deleted _ _ := rfl
  seq _ _ := rfl
  unwarranted _ := rfl
  losingCharge _ := rfl
  withPatterns _ := rfl
  stored _ _ _ := rfl
  hold _ _ := rfl
  restart _ _ := rfl
  now _ _ := rfl
  pin _ _ := rfl
  params _ _ := rfl
  thermal _ _ := rfl
  clock _ _ := rfl
  powered _ _ _ := rfl
  blocks _ _ := rfl
  released _ _ := rfl

theorem exec_pending {c : Instr} {s t : State} (h : exec c s = .next t) : t.pending = s.pending :=
  portBlind_pending.closedExec.exec c s t h

theorem step_idle {s : State} (h : s.pending = []) : step s = .next (s.reach (s.now + 1)) := by
  unfold step
  rw [h]

/-- Settles O2: an idle step lets time pass, and every command's operations leave the queue alone. -/
theorem theQueueChangesOnlyAtItsFront : Obligations.TheQueueChangesOnlyAtItsFront := by
  have idle : ∀ s : State, s.pending = [] → step s = .next { startDue s with now := s.now + 1 } := fun s hq => by
    rw [step_idle hq, reach_of_later (Nat.lt_succ_self _)]
  refine ⟨idle, fun s hq he => ?_, fun c s t h => exec_pending h⟩
  rw [idle s hq, startDue_of_none he]

/-! ### The DRAM's contents -/

/-- A burst stores no more bytes than it covers (R105). -/
theorem burstData_length_le (e : Entry) : e.burstData.length ≤ e.burstBytes := by
  unfold Entry.burstData
  cases e.kind
  · exact Nat.zero_le _
  · exact List.length_take_le _ _
  · exact (List.length_replicate ..).le

theorem wf_storeBurst {m : Memory} {e : Entry} (he : e.burstStart + e.burstBytes ≤ dramSize) (hm : m.wf = true) :
    (storeBurst m e).wf = true :=
  wf_writeRun _ _ _ hm (le_trans (Nat.add_le_add_left (burstData_length_le e) _) he)

/-- Every operation keeps the DRAM's contents canonical: what changes them writes inside the DRAM, empties them, or
changes only the bytes' values. -/
theorem portBlind_wf : PortBlind fun s t => s.memory.wf = true → t.memory.wf = true where
  trans h g := g ∘ h
  offPorts h := by rw [h.memory]; exact id
  reports _ _ := id
  region _ _ _ _ _ _ _ := id
  defined _ _ _ _ _ _ := id
  deleted _ _ := id
  seq _ _ := id
  unwarranted s _ := wf_unwarranted s.memory
  losingCharge s := wf_losingCharge s.memory
  withPatterns s := wf_withPatterns s.memory
  stored _ _ he := wf_storeBurst he
  hold _ _ := id
  restart _ _ := id
  now _ _ := id
  pin _ _ := id
  params _ _ := id
  thermal _ _ := id
  clock _ _ := id
  powered _ _ _ _ := rfl
  blocks _ _ := id
  released _ _ := id

/-- Settles O5: every primitive update keeps the canonical form, and so does every command. -/
theorem memoryStaysCanonical : Obligations.MemoryStaysCanonical := fun s t hm h =>
  portBlind_wf.closedExec.step (fun _ _ => id) s t h hm

/-! ### The region table's shape -/

/-- The regions are disjoint and inside the DRAM (R42, R40). -/
def RegionsSound (s : State) : Prop := RegionsLaw s ∧ RegionsFit s

/-- Only the ranges of the regions matter: a table whose regions each have the range of one in the same slot is as
sound as it was. -/
theorem RegionsSound.of_ranges {s t : State} (hs : RegionsSound s)
    (hr : ∀ i a, t.region i = some a → ∃ b, s.region i = some b ∧ a.basePage = b.basePage ∧ a.pageCount = b.pageCount) :
    RegionsSound t := by
  obtain ⟨hlaw, hfit⟩ := hs
  refine ⟨fun i j a b hij ha hb => ?_, fun i a ha => ?_⟩
  · obtain ⟨a', ha', habase, hacount⟩ := hr i a ha
    obtain ⟨b', hb', hbbase, hbcount⟩ := hr j b hb
    rw [habase, hacount, hbbase, hbcount]
    exact hlaw i j a' b' hij ha' hb'
  · obtain ⟨a', ha', hbase, hcount⟩ := hr i a ha
    rw [hbase, hcount]
    exact hfit i a' ha'

theorem RegionsSound.of_regions {s t : State} (h : t.regions = s.regions) (hs : RegionsSound s) : RegionsSound t :=
  hs.of_ranges fun i a ha => ⟨a, (region_congr h i).symm.trans ha, rfl, rfl⟩

theorem RegionsSound.of_empty {t : State} (h : ∀ i, t.region i = none) : RegionsSound t :=
  have none_ne : ∀ {i a}, t.region i = some a → False := fun {i a} ha => by
    rw [h i] at ha
    cases ha
  ⟨fun _ _ _ _ _ ha => (none_ne ha).elim, fun _ _ ha => (none_ne ha).elim⟩

@[simp] theorem resetBlocks_region (s : State) (c : ResetCause) (i : RegionId) : (resetBlocks s c).region i = none := by
  simp [State.region, resetBlocks]

@[simp] theorem powerOn_region (now g : Nat) (x : Straps) (q : List Instr) (i : RegionId) :
    (State.powerOn now g x q).region i = none := by
  simp [State.region, State.powerOn]

theorem sharesPage_iff {b c b' c' : Nat} : sharesPage b c b' c' = true ↔ b < b' + c' ∧ b' < b + c := by
  simp [sharesPage]

/-- A range that overlaps no region shares a page with none (R42). -/
theorem overlapsAny_eq_false_iff {s : State} {b c : Nat} :
    overlapsAny s b c = false ↔ ∀ i r, s.region i = some r → sharesPage b c r.basePage r.pageCount = false := by
  unfold overlapsAny allRegions
  rw [List.any_eq_false]
  refine ⟨fun h i r hr => ?_, fun h i _ => ?_⟩
  · have := h i (List.mem_finRange i)
    rw [hr] at this
    exact Bool.eq_false_iff.mpr this
  · cases hr : s.region i with
    | none => exact Bool.false_ne_true
    | some r => exact Bool.eq_false_iff.mp (h i r hr)

/-- A record that DEFINE_REGION stores is in range and overlaps no region (R40). -/
theorem defineRecord_inr {s : State} {f : DefineFields} {r : Region} (h : defineRecord s f = .inr r) :
    1 ≤ r.pageCount ∧ r.basePage + r.pageCount ≤ 65536 ∧ overlapsAny s r.basePage r.pageCount = false := by
  unfold defineRecord at h
  split at h
  · cases h
  · next hrange =>
    split at h
    · cases h
    · split at h
      · split at h
        · cases h
        · next hover =>
          cases h
          rw [not_or] at hrange
          obtain ⟨hcount, htop⟩ := hrange
          exact ⟨Nat.pos_of_ne_zero hcount, Nat.not_lt.mp htop, Bool.eq_false_iff.mpr hover⟩
      · cases h

/-- A new record stored beside regions that it does not overlap leaves the table sound. -/
theorem RegionsSound.define {s : State} {i : RegionId} {r : Region} (hs : RegionsSound s)
    (hcount : 1 ≤ r.pageCount) (htop : r.basePage + r.pageCount ≤ 65536)
    (hover : overlapsAny s r.basePage r.pageCount = false) : RegionsSound (s.setRegion i (some r)) := by
  obtain ⟨hlaw, hfit⟩ := hs
  have hnew : ∀ j b, s.region j = some b → ∀ page, ¬ (r.basePage ≤ page ∧ page < r.basePage + r.pageCount ∧
      b.basePage ≤ page ∧ page < b.basePage + b.pageCount) := by
    intro j b hb page hpage
    have := overlapsAny_eq_false_iff.mp hover j b hb
    have hshare : sharesPage r.basePage r.pageCount b.basePage b.pageCount = true := sharesPage_iff.mpr (by omega)
    rw [hshare] at this
    cases this
  refine ⟨fun j k a b hjk ha hb => ?_, fun j a ha => ?_⟩
  · by_cases hj : j = i
    · subst hj
      rw [region_setRegion_self] at ha
      cases ha
      rw [region_setRegion_ne s _ (Ne.symm hjk)] at hb
      exact hnew k b hb
    · rw [region_setRegion_ne s _ hj] at ha
      by_cases hk : k = i
      · subst hk
        rw [region_setRegion_self] at hb
        cases hb
        intro page hpage
        exact hnew j a ha page (by omega)
      · rw [region_setRegion_ne s _ hk] at hb
        exact hlaw j k a b hjk ha hb
  · by_cases hj : j = i
    · subst hj
      rw [region_setRegion_self] at ha
      cases ha
      exact ⟨hcount, htop⟩
    · rw [region_setRegion_ne s _ hj] at ha
      exact hfit j a ha

/-- Every operation keeps the regions disjoint and inside the DRAM: only DEFINE_REGION makes a range. -/
theorem portBlind_regionsSound : PortBlind fun s t => RegionsSound s → RegionsSound t where
  trans h g := g ∘ h
  offPorts h := .of_regions h.regions
  reports _ _ := .of_regions rfl
  region s i r r' hr hb hc hs := hs.of_ranges fun j a ha => by
    by_cases hj : j = i
    · subst hj
      rw [region_setRegion_self] at ha
      cases ha
      exact ⟨r, hr, hb, hc⟩
    · exact ⟨a, (region_setRegion_ne s _ hj).symm.trans ha, rfl, rfl⟩
  defined s f i r _ hd hs := by
    obtain ⟨hcount, htop, hover⟩ := defineRecord_inr hd
    exact hs.define hcount htop hover
  deleted s i hs := hs.of_ranges fun j a ha => by
    by_cases hj : j = i
    · subst hj
      rw [region_setRegion_self] at ha
      cases ha
    · exact ⟨a, (region_setRegion_ne s _ hj).symm.trans ha, rfl, rfl⟩
  seq _ _ := .of_regions rfl
  unwarranted _ := .of_regions rfl
  losingCharge _ := .of_regions rfl
  withPatterns _ := .of_regions rfl
  stored _ _ _ := .of_regions rfl
  hold _ _ := .of_regions rfl
  restart _ _ := .of_regions rfl
  now _ _ := .of_regions rfl
  pin _ _ := .of_regions rfl
  params _ _ := .of_regions rfl
  thermal _ _ := .of_regions rfl
  clock _ _ := .of_regions rfl
  powered _ _ _ _ := .of_empty fun _ => powerOn_region _ _ _ _ _
  blocks s c _ := .of_empty fun _ => resetBlocks_region s c _
  released _ _ := .of_regions rfl

/-- Settles O8: every primitive update keeps the table sound, DEFINE_REGION's by its checks, and so does every
command. -/
theorem regionsStayDisjoint : Obligations.RegionsStayDisjoint := fun s t hlaw hfit h =>
  portBlind_regionsSound.closedExec.step (fun _ _ => .of_regions rfl) s t h ⟨hlaw, hfit⟩

end Sys2Proof.Machine
end

section
/-! PROOFS. The bounds of a port's counters and lists and the places of its receiver: what the transmitter, the
hand-overs and the notices do to a port, what a bad frame does, and that every command keeps both. -/

namespace Sys2Proof.Machine

/-! ### What the hand-overs do to a port -/

/-- The bounds of a port but that of the bad-frame count. -/
def ListBounds (x : PortState) : Prop :=
  x.link.credit ≤ 16 ∧ refusalsWaiting x.link ≤ 16 ∧ x.notices.queue.length ≤ 16 ∧ x.notices.lost ≤ 255

theorem portBounds_iff {x : PortState} : PortBounds x ↔ x.link.badFrames < 8 ∧ ListBounds x := Iff.rfl

/-- A port whose bad-frame count and receiver are as before, and whose lists stay within their bounds. -/
structure SendsOnly (x y : PortState) : Prop where
  badFrames : y.link.badFrames = x.link.badFrames
  rx : y.link.rx = x.link.rx
  lists : ListBounds x → ListBounds y

theorem SendsOnly.refl (x : PortState) : SendsOnly x x := ⟨rfl, rfl, id⟩

theorem SendsOnly.trans {x y z : PortState} (h : SendsOnly x y) (g : SendsOnly y z) : SendsOnly x z :=
  ⟨g.badFrames.trans h.badFrames, g.rx.trans h.rx, g.lists ∘ h.lists⟩

theorem SendsOnly.of_eq {x y : PortState} (h : y = x) : SendsOnly x y := h ▸ SendsOnly.refl x

/-- The transmitter's arbiter does nothing, or begins the oldest response, or with credit the oldest notice (R15). -/
theorem arbitrate_cases (s : State) (p : Port) :
    arbitrate s p = s ∨
      (∃ r rest, (s.link p).responses = r :: rest ∧
        arbitrate s p = s.setLink p { s.link p with responses := rest, tx := some ⟨r.frame, r.restart⟩ }) ∨
      ∃ n rest, (s.notices p).queue = n :: rest ∧ 0 < (s.link p).credit ∧ arbitrate s p = sendNotice s p n rest := by
  unfold arbitrate
  split
  · split
    · exact .inl rfl
    · split
      · next r rest hr => exact .inr (.inl ⟨r, rest, hr, rfl⟩)
      · split
        · next n rest hn =>
          split
          · next hc => exact .inr (.inr ⟨n, rest, hn, hc, rfl⟩)
          · exact .inl rfl
        · exact .inl rfl
  · exact .inl rfl

theorem refusalsWaiting_tail_le {l : Link} {r : Response} {rest : List Response} {x : Option Transmission}
    (h : l.responses = r :: rest) : refusalsWaiting { l with responses := rest, tx := x } ≤ refusalsWaiting l := by
  unfold refusalsWaiting
  rw [h]
  exact (List.sublist_cons_self r rest).countP_le

theorem sendNotice_port (s : State) (p : Port) (n : Notice) (rest : List Notice) :
    (sendNotice s p n rest).port p = { s.port p with
      notices := ⟨rest, 0, (s.notices p).next + 1⟩
      link := { s.link p with
        credit := (s.link p).credit - 1
        tx := some ⟨noticeFrame (s.notices p).next (s.notices p).lost n, false⟩ } } := by
  simp [sendNotice, State.setLink, State.setNotices, State.link]

theorem setLink_port (s : State) (p : Port) (l : Link) : (s.setLink p l).port p = { s.port p with link := l } := by
  simp [State.setLink]

theorem setNotices_port (s : State) (p : Port) (x : Notices) :
    (s.setNotices p x).port p = { s.port p with notices := x } := by
  simp [State.setNotices]

theorem arbitrate_sendsOnly (s : State) (p q : Port) : SendsOnly (s.port q) ((arbitrate s p).port q) := by
  by_cases hq : q = p
  · subst hq
    obtain h | ⟨r, rest, hr, h⟩ | ⟨n, rest, hn, -, h⟩ := arbitrate_cases s q
    · exact .of_eq (by rw [h])
    · rw [h, setLink_port]
      exact ⟨rfl, rfl, fun ⟨hc, hw, hb⟩ => ⟨hc, (refusalsWaiting_tail_le hr).trans hw, hb⟩⟩
    · rw [h, sendNotice_port]
      refine ⟨rfl, rfl, fun ⟨hc, hw, hl, _⟩ => ⟨(Nat.sub_le _ _).trans hc, hw, ?_, Nat.zero_le _⟩⟩
      have hlen : (s.notices q).queue.length = rest.length + 1 := by rw [hn]; rfl
      exact (Nat.le_of_succ_le hlen.ge).trans hl
  · exact .of_eq (arbitrate_port_ne s hq)

/-- A link written back with other responses, tables or transmission, and then the arbiter. -/
theorem setLink_arbitrate_sendsOnly (s : State) (p q : Port) (l : Link) (hl : SendsOnly (s.port p) { s.port p with link := l }) :
    SendsOnly (s.port q) ((arbitrate (s.setLink p l) p).port q) := by
  refine SendsOnly.trans ?_ (arbitrate_sendsOnly _ p q)
  by_cases hq : q = p
  · subst hq
    rwa [setLink_port]
  · exact .of_eq (port_setPort_ne _ _ hq)

theorem handRefusal_sendsOnly (s : State) (p : Port) (c : RespClass) (f : Frame) (q : Port) :
    SendsOnly (s.port q) ((handRefusal s p c f).port q) := by
  unfold handRefusal
  split
  · next hroom =>
    refine setLink_arbitrate_sendsOnly s p q _ ⟨rfl, rfl, fun ⟨hc, _, hb⟩ => ⟨hc, ?_, hb⟩⟩
    unfold refusalsWaiting at hroom ⊢
    rw [List.countP_append]
    have hone := List.countP_le_length (p := fun r : Response => decide (r.cls ≠ .reply)) (l := [⟨c, f, false⟩])
    have htwo := Nat.add_le_add (Nat.le_of_lt_succ hroom) hone
    exact htwo
  · exact .refl _

theorem refusalsWaiting_append_reply (l : Link) (f : Frame) (b : Bool) (a : Vector InFlight 8)
    (c : Vector (Option Frame) 8) :
    refusalsWaiting { l with inFlight := a, cache := c, responses := l.responses ++ [⟨.reply, f, b⟩] }
      = refusalsWaiting l := by
  simp [refusalsWaiting, List.countP_append]

theorem handReply_sendsOnly (s : State) (r : ReplyTo) (a b : Bool) (pl : List Byte) (q : Port) :
    SendsOnly (s.port q) ((handReply s r a b pl).port q) := by
  unfold handReply
  split
  · refine setLink_arbitrate_sendsOnly s r.port q _ ⟨rfl, rfl, fun ⟨hc, hw, hb⟩ => ⟨hc, ?_, hb⟩⟩
    exact (refusalsWaiting_append_reply _ _ _ _ _).le.trans hw
  · exact .refl _

/-- A notice queue within its bounds keeps them as a notice is posted (R178, R179). -/
theorem enqueue_bounds {q : Notices} (n : Notice) (hq : q.queue.length ≤ 16 ∧ q.lost ≤ 255) :
    (q.enqueue n).queue.length ≤ 16 ∧ (q.enqueue n).lost ≤ 255 := by
  obtain ⟨hlen, hlost⟩ := hq
  have append : ∀ m : Notices,
      m = (if q.queue.length < 16 then { q with queue := q.queue ++ [n] } else { q with lost := min 255 (q.lost + 1) }) →
      m.queue.length ≤ 16 ∧ m.lost ≤ 255 := by
    rintro m rfl
    split
    · next hroom => exact ⟨by simpa using hroom, hlost⟩
    · exact ⟨hlen, Nat.min_le_left _ _⟩
  unfold Notices.enqueue
  dsimp only
  split
  · split
    · exact ⟨hlen, hlost⟩
    · exact append _ rfl
  · split
    · exact ⟨(List.length_map _).le.trans hlen, hlost⟩
    · exact append _ rfl
  · exact append _ rfl

theorem post_sendsOnly (s : State) (p : Port) (n : Notice) (q : Port) :
    SendsOnly (s.port q) ((post s p n).port q) := by
  unfold post
  split
  · refine SendsOnly.trans ?_ (arbitrate_sendsOnly _ p q)
    by_cases hq : q = p
    · subst hq
      rw [setNotices_port]
      exact ⟨rfl, rfl, fun ⟨hc, hw, hb⟩ => ⟨hc, hw, enqueue_bounds n hb⟩⟩
    · exact .of_eq (port_setPort_ne _ _ hq)
  · exact .refl _

/-! ### What every command keeps of a port -/

/-- A port that keeps its bounds, and whose receiver stays where section 1.3 lets it stand. -/
structure PortKeeps (x y : PortState) : Prop where
  bounds : PortBounds x → PortBounds y
  sound : x.link.rx.Sound → y.link.rx.Sound

/-- Every port keeps its bounds and its receiver's soundness. -/
def PortsKeep (s t : State) : Prop := ∀ q, PortKeeps (s.port q) (t.port q)

theorem SendsOnly.portKeeps {x y : PortState} (h : SendsOnly x y) : PortKeeps x y :=
  ⟨fun ⟨hcount, hlists⟩ => ⟨h.badFrames ▸ hcount, h.lists hlists⟩, fun hs => h.rx ▸ hs⟩

theorem PortKeeps.refl (x : PortState) : PortKeeps x x := ⟨id, id⟩

theorem PortKeeps.of_eq {x y : PortState} (h : y = x) : PortKeeps x y := h ▸ PortKeeps.refl x

/-- A port at reset is within its bounds, its receiver in HUNT. -/
theorem portKeeps_reset (x : PortState) : PortKeeps x PortState.reset :=
  ⟨fun _ => ⟨by decide, by decide, by decide, by decide, by decide⟩, fun _ => idle_sound⟩

theorem PortsKeep.trans {s t u : State} (h : PortsKeep s t) (g : PortsKeep t u) : PortsKeep s u :=
  fun q => ⟨(g q).bounds ∘ (h q).bounds, (g q).sound ∘ (h q).sound⟩

theorem PortsKeep.of_ports {s t : State} (h : t.ports = s.ports) : PortsKeep s t := fun q => .of_eq (port_congr h q)

theorem PortsKeep.of_sends {s t : State} (h : ∀ q, SendsOnly (s.port q) (t.port q)) : PortsKeep s t :=
  fun q => (h q).portKeeps

theorem PortsKeep.setPort {s : State} {p : Port} {x : PortState} (h : PortKeeps (s.port p) x) :
    PortsKeep s (s.setPort p x) := fun q => by
  by_cases hq : q = p
  · subst hq
    rwa [port_setPort_self]
  · exact .of_eq (port_setPort_ne s x hq)

theorem refusalsWaiting_filter_le (l : List Response) (f : Response → Bool) :
    (l.filter f).countP (fun r => decide (r.cls ≠ .reply)) ≤ l.countP fun r => decide (r.cls ≠ .reply) :=
  List.filter_sublist.countP_le

theorem closedWide_portsKeep : ClosedWide PortsKeep where
  refl _ := .of_ports rfl
  trans := PortsKeep.trans
  handReply _ _ _ _ _ := .of_sends (handReply_sendsOnly _ _ _ _ _)
  post _ _ _ := .of_sends (post_sendsOnly _ _ _)
  fifo _ _ _ := .setPort ⟨id, id⟩
  slot _ _ _ := .setPort ⟨id, id⟩
  reports _ _ := .of_ports rfl
  region _ _ _ _ _ _ _ := .of_ports rfl
  quiet _ _ := .of_ports rfl
  seq _ _ := .of_ports rfl
  unwarranted _ := .of_ports rfl
  losingCharge _ := .of_ports rfl
  withPatterns _ := .of_ports rfl
  hold _ _ := .of_ports rfl
  restart _ _ := .of_ports rfl
  lost _ _ _ := .setPort ⟨fun ⟨hcount, _, hw, _, _⟩ =>
    ⟨hcount, Nat.zero_le _, (refusalsWaiting_filter_le _ _).trans hw, Nat.zero_le _, Nat.zero_le _⟩, id⟩

/-- A port with another bad-frame count that then only sends keeps its bounds once its count is below 8 (R9). -/
theorem SendsOnly.portKeeps_counted {x y : PortState} {n m : Nat}
    (h : SendsOnly { x with link := { x.link with badFrames := n } } y) (hm : m < 8) :
    PortKeeps x { y with link := { y.link with badFrames := m } } :=
  ⟨fun ⟨_, hb⟩ => ⟨hm, h.lists hb⟩, (congrArg Receiver.Sound h.rx).mpr⟩

/-- A bad frame keeps the bounds: the count that reaches 8 returns to 0 (R9). -/
theorem badFrame_portsKeep (s : State) (p : Port) (c : NakCause) : PortsKeep s (badFrame s p c) := by
  unfold badFrame
  dsimp only
  generalize hn : (s.link p).badFrames + 1 = n
  have counted := handRefusal_sendsOnly (s.setLink p { s.link p with badFrames := n }) p .nak (nakFrame n c) p
  rw [setLink_port] at counted
  have others : ∀ q, q ≠ p → (handRefusal (s.setLink p { s.link p with badFrames := n }) p .nak
      (nakFrame n c)).port q = s.port q := fun q hq =>
    (handRefusal_port_ne _ _ _ _ hq).trans (port_setPort_ne _ _ hq)
  generalize handRefusal (s.setLink p { s.link p with badFrames := n }) p .nak (nakFrame n c) = t at counted others
  have recounted : ∀ m, m < 8 → PortsKeep s (t.setLink p { t.link p with badFrames := m }) := fun m hm q => by
    by_cases hq : q = p
    · subst hq
      rw [setLink_port]
      exact counted.portKeeps_counted hm
    · exact .of_eq ((port_setPort_ne _ _ hq).trans (others q hq))
  split
  · next hlt =>
    have same : t.setLink p { t.link p with badFrames := n } = t := by
      have hcount : (t.link p).badFrames = n := counted.badFrames
      rw [← hcount]
      exact setLink_link t p
    exact same ▸ recounted n hlt
  · split
    · exact (recounted 0 (Nat.zero_lt_succ 7)).trans (closedWide_portsKeep.loseEvent _ _ _)
    · exact recounted 0 (Nat.zero_lt_succ 7)

theorem closedExec_portsKeep : ClosedExec PortsKeep where
  toClosedWide := closedWide_portsKeep
  now _ _ := .of_ports rfl
  pin _ _ := .of_ports rfl
  params _ _ := .of_ports rfl
  thermal _ _ := .of_ports rfl
  clock _ _ := .of_ports rfl
  session _ _ _ := .setPort ⟨id, id⟩
  opened _ _ _ _ _ hc :=
    .setPort ⟨fun ⟨hcount, _, hw, _, _⟩ => ⟨hcount, hc, hw, Nat.zero_le _, Nat.zero_le _⟩, id⟩
  closed _ _ :=
    .setPort ⟨fun ⟨hcount, _, hw, _, _⟩ => ⟨hcount, Nat.zero_le _, hw, Nat.zero_le _, Nat.zero_le _⟩, id⟩
  tables _ _ _ _ := .setPort ⟨id, id⟩
  heard _ _ := .setPort ⟨fun ⟨_, hb⟩ => ⟨Nat.zero_lt_succ 7, hb⟩, id⟩
  counted := badFrame_portsKeep
  fed s _ bytes := .setPort ⟨id, hear_sound s.now bytes _⟩
  hunted _ _ := .setPort ⟨id, fun _ => idle_sound⟩
  credit _ _ _ hn := .setPort ⟨fun ⟨hcount, _, hb⟩ => ⟨hcount, hn, hb⟩, id⟩
  sent _ _ := .setPort ⟨id, id⟩
  resent _ _ _ := .setPort ⟨fun ⟨hcount, hc, hw, hb⟩ =>
    ⟨hcount, hc, (refusalsWaiting_append_reply _ _ _ _ _).le.trans hw, hb⟩, id⟩
  arbitrated _ _ := .of_sends (arbitrate_sendsOnly _ _)
  refused _ _ _ _ := .of_sends (handRefusal_sendsOnly _ _ _ _)
  defined _ _ _ _ _ _ := .of_ports rfl
  deleted _ _ := .of_ports rfl
  stored _ _ _ := .of_ports rfl
  powered _ _ _ q := by cases q <;> exact portKeeps_reset _
  blocks _ _ q := by cases q <;> exact portKeeps_reset _
  released _ _ := .of_ports rfl

/-- Settles O9: every primitive update keeps each port's bounds and its receiver's place, and so does every command. -/
theorem portsStayWithinTheirLimits : Obligations.PortsStayWithinTheirLimits := by
  have keep : ∀ s t : State, step s = .next t → PortsKeep s t :=
    closedExec_portsKeep.step fun _ _ => .of_ports rfl
  exact ⟨fun s t hs h q => (keep s t h q).bounds (hs q), fun s t hs h q => (keep s t h q).sound (hs q)⟩

end Sys2Proof.Machine
end

section
/-! PROOFS. What the laws of the Memory Sequencer and of the parameters read of a state, when an update of the
Sequencer keeps them, and that every operation and every command does (R35, R121, R127, R128, R147). -/

namespace Sys2Proof.Machine

/-! ### What the laws read -/

/-- The DRAM states in which R121 and what leads to them hold every bank CLOSED. -/
def DramState.dozing : DramState → Bool
  | .selfRefresh _ | .retention _ _ | .enteringSr _ .payDebt | .waking _ .selfRefresh | .waking _ (.retention _) => true
  | _ => false

/-- The DRAM states in which a warm restart finds nothing to retain any more (R172). -/
def DramState.held : DramState → Bool
  | .uninitialized | .retention _ _ => true
  | _ => false

theorem banksLaw_iff {s : State} : BanksLaw s ↔ (s.seq.dram.dozing = true → s.seq.banks = allClosed) := by
  unfold BanksLaw
  split
  · next h => simp [h, DramState.dozing]
  · next h => simp [h, DramState.dozing]
  · next h => simp [h, DramState.dozing]
  · next h => simp [h, DramState.dozing]
  · next h => simp [h, DramState.dozing]
  · next hsr hret hpay hwsr hwret =>
    have awake : s.seq.dram.dozing = false := by
      unfold DramState.dozing
      split
      · next h => exact (hsr _ h).elim
      · next h => exact (hret _ _ h).elim
      · next h => exact (hpay _ h).elim
      · next h => exact (hwsr _ h).elim
      · next h => exact (hwret _ _ h).elim
      · rfl
    simp [awake]

theorem held_iff {d : DramState} : d.held = true ↔ d = .uninitialized ∨ ∃ r q, d = .retention r q := by
  cases d <;> simp [DramState.held]

theorem bandLaw_iff {s : State} : BandLaw s ↔
    (∀ r, s.seq.dram = .selfRefresh r → s.thermal.band.cool = true ∧ s.seq.retEntry = none) ∧
      (s.isRunning = false → s.seq.retEntry = none → s.seq.dram.held = true) := by
  unfold BandLaw
  simp only [held_iff]

/-- All that the laws of the Sequencer and of the parameters read of a state. -/
def State.core (s : State) : DramState × Vector Bank 8 × Nat × Nat × Option RetReason × Band × Bool × Params :=
  (s.seq.dram, s.seq.banks, s.seq.debt, s.seq.overruns, s.seq.retEntry, s.thermal.band, s.isRunning, s.params)

/-- The laws of the Sequencer and of the parameters, each kept for itself. -/
structure SeqKeeps (s t : State) : Prop where
  banks : BanksLaw s → BanksLaw t
  band : BandLaw s → BandLaw t
  debt : DebtLaw s → DebtLaw t
  params : ParamsLaw s → ParamsLaw t

namespace SeqKeeps

theorem of_core {s t : State} (h : t.core = s.core) : SeqKeeps s t := by
  simp only [State.core, Prod.mk.injEq] at h
  obtain ⟨hdram, hbanks, hdebt, hover, hret, hband, hrun, hparams⟩ := h
  refine ⟨?_, ?_, ?_, ?_⟩
  · rw [banksLaw_iff, banksLaw_iff, hdram, hbanks]; exact id
  · rw [bandLaw_iff, bandLaw_iff, hdram, hret, hband, hrun]; exact id
  · unfold DebtLaw; rw [hdebt, hover]; exact id
  · unfold ParamsLaw; rw [hparams]; exact id

theorem refl (s : State) : SeqKeeps s s := of_core rfl

theorem trans {s t u : State} (h : SeqKeeps s t) (g : SeqKeeps t u) : SeqKeeps s u :=
  ⟨g.banks ∘ h.banks, g.band ∘ h.band, g.debt ∘ h.debt, g.params ∘ h.params⟩

theorem offPorts {s t : State} (h : OffPorts s t) : SeqKeeps s t :=
  of_core (by simp only [State.core, h.seq, h.thermal, h.isRunning, h.params])

/-- What an operation keeps of a state, it keeps of every state with the same core. -/
theorem after {s t u : State} (g : SeqKeeps t u) (h : t.core = s.core) : SeqKeeps s u := (of_core h).trans g

theorem closed : Closed SeqKeeps where
  refl := refl
  trans := trans
  handReply _ _ _ _ _ := offPorts (handReply_offPorts _ _ _ _ _)
  post _ _ _ := offPorts (post_offPorts _ _ _)
  fifo _ _ _ := of_core rfl
  slot _ _ _ := of_core rfl
  reports _ _ := of_core rfl
  region _ _ _ _ _ _ _ := of_core rfl
  quiet _ _ := of_core rfl

theorem foldl {α : Type} (f : State → α → State) (hf : ∀ s a, SeqKeeps s (f s a)) (l : List α) (s : State) :
    SeqKeeps s (l.foldl f s) := closed.foldl f hf l s

end SeqKeeps

/-- The Sequencer may leave its DRAM state: no warm restart holds it in UNINITIALIZED or RETENTION. -/
def Departs (s : State) : Prop := s.isRunning = true ∨ s.seq.dram.held = false

theorem departs_of_dram {s : State} {d : DramState} (h : s.seq.dram = d) (hd : d.held = false) : Departs s :=
  .inr (h ▸ hd)

/-- An update of the Sequencer keeps the laws if it closes the banks where R121 calls for it, enters SELF_REFRESH only
in a cool band with no retention entry, leaves a held DRAM only while the hub runs, and raises no count too far. -/
theorem SeqKeeps.move {s : State} {q : Sequencer}
    (hbanks : BanksLaw s → q.dram.dozing = true → q.banks = allClosed)
    (hsleep : ∀ r, q.dram = .selfRefresh r → s.thermal.band.cool = true ∧ q.retEntry = none)
    (hleave : q.dram.held = true ∨ (Departs s ∧ (q.retEntry = none → s.seq.retEntry = none)))
    (hdebt : s.seq.debt ≤ 8 → q.debt ≤ 8) (hover : s.seq.overruns ≤ 65535 → q.overruns ≤ 65535) :
    SeqKeeps s (s.setSeq q) where
  banks h := banksLaw_iff.mpr (hbanks h)
  band h := by
    obtain ⟨-, hheld⟩ := bandLaw_iff.mp h
    refine bandLaw_iff.mpr ⟨hsleep, fun (hrun : s.isRunning = false) hnone => ?_⟩
    obtain hq | ⟨hrunning | hs, hret⟩ := hleave
    · exact hq
    · rw [hrunning] at hrun
      cases hrun
    · have := hheld hrun (hret hnone)
      rw [hs] at this
      cases this
  debt h := ⟨hdebt h.1, hover h.2⟩
  params := id

/-- A move to a DRAM state that is neither SELF_REFRESH nor one with its banks CLOSED by R121. -/
theorem SeqKeeps.wakeful {s : State} {q : Sequencer} (hd : Departs s) (hdoze : q.dram.dozing = false)
    (hret : q.retEntry = s.seq.retEntry) (hdebt : q.debt ≤ s.seq.debt) (hover : q.overruns = s.seq.overruns) :
    SeqKeeps s (s.setSeq q) :=
  .move (fun _ h => by rw [hdoze] at h; cases h) (fun r h => by rw [h] at hdoze; cases hdoze)
    (.inr ⟨hd, fun h => hret ▸ h⟩) (le_trans hdebt) (le_of_eq_of_le hover)

/-- An update that leaves the DRAM state and, unless it closes them, the banks. -/
theorem SeqKeeps.stay {s : State} {q : Sequencer} (hdram : q.dram = s.seq.dram)
    (hbanks : q.banks = allClosed ∨ q.banks = s.seq.banks) (hret : q.retEntry = s.seq.retEntry)
    (hdebt : s.seq.debt ≤ 8 → q.debt ≤ 8) (hover : s.seq.overruns ≤ 65535 → q.overruns ≤ 65535) :
    SeqKeeps s (s.setSeq q) where
  banks h := banksLaw_iff.mpr fun hdoze => hbanks.elim id fun hb => hb.trans (banksLaw_iff.mp h (hdram ▸ hdoze))
  band h := bandLaw_iff.mpr (by
    have := bandLaw_iff.mp h
    rw [setSeq_seq, hdram, hret]
    exact this)
  debt h := ⟨hdebt h.1, hover h.2⟩
  params := id

/-! ### The Memory Sequencer's operations -/

theorem markSuspect_core (s : State) : (markSuspect s).core = s.core := by
  unfold markSuspect
  split
  · rfl
  · have h := postAll_offPorts (s.setSeq { s.seq with condition := .suspect }) (.memory .suspect)
    simp only [State.core, h.seq, h.thermal, h.isRunning, h.params]
    rfl

theorem judgeRange_core (s : State) (r : Range) : (judgeRange s r).core = s.core := by
  unfold judgeRange
  split
  · rw [markSuspect_core]; rfl
  · rfl

theorem State.core_dram {s t : State} (h : t.core = s.core) : t.seq.dram = s.seq.dram := congrArg Prod.fst h

theorem State.core_run {s t : State} (h : t.core = s.core) : t.isRunning = s.isRunning :=
  congrArg (fun c => c.2.2.2.2.2.2.1) h

theorem startInit_keeps {s : State} (hd : Departs s) : SeqKeeps s (startInit s) :=
  SeqKeeps.after (t := { s with memory := s.memory.unwarranted }) (.wakeful hd rfl rfl (Nat.zero_le _) rfl) rfl

theorem abortInit_keeps (s : State) : SeqKeeps s (abortInit s) :=
  .move (fun _ h => by cases h) (fun _ h => by cases h) (.inl rfl) id id

/-- A wake keeps the laws if its banks are CLOSED already, or need not be (R149). -/
theorem beginWake_keeps {s : State} {target : WakeTarget} {source : WakeFrom} (n : Nat) (hd : Departs s)
    (hb : (DramState.waking target source).dozing = true → s.seq.dram.dozing = true) :
    SeqKeeps s (beginWake s target source n) :=
  .move (fun h hdoze => banksLaw_iff.mp h (hb hdoze)) (fun _ h => by cases h) (.inr ⟨hd, id⟩) id id

theorem wakeRetention_keeps {s : State} {range : Range} {why : RetReason} (hrun : s.isRunning = true)
    (hdram : s.seq.dram = .retention range why) : SeqKeeps s (wakeRetention s range) :=
  (beginWake_keeps (s := { s with retentionHold := false }) 700 (.inl hrun) fun _ => by
    change s.seq.dram.dozing = true
    rw [hdram]
    rfl).after rfl

theorem restoreDram_keeps {s : State} (hrun : s.isRunning = true) : SeqKeeps s (restoreDram s) := by
  unfold restoreDram
  split
  · next hdram => exact wakeRetention_keeps hrun hdram
  · next hdram =>
    split
    · exact wakeRetention_keeps hrun hdram
    · exact .refl s
  · exact startInit_keeps (.inl hrun)
  all_goals exact .refl s

theorem reachRetention_keeps (s : State) (range : Range) : SeqKeeps s (reachRetention s range) := by
  unfold reachRetention
  dsimp only
  have reached : SeqKeeps s (judgeRange (s.setSeq { s.seq with
      dram := .retention range (s.seq.retEntry.getD .refLost), banks := allClosed, debt := 0, urgent := false
      bus := .free, opTimer := none, retEntry := none }) range) := by
    refine SeqKeeps.trans ?_ (.of_core (judgeRange_core _ range))
    exact .move (fun _ _ => rfl) (fun _ h => by cases h) (.inl rfl) (fun _ => Nat.zero_le _) id
  refine reached.trans ?_
  split
  · next h =>
    rw [Bool.and_eq_true] at h
    exact restoreDram_keeps h.2
  · exact .refl _

/-- RETENTION is reached in keeping with R147 whatever stood before. -/
theorem bandLaw_reachRetention (s : State) (range : Range) : BandLaw (reachRetention s range) := by
  have reached : ∀ t : State, t.seq.dram.held = true → BandLaw t := fun t ht => by
    refine bandLaw_iff.mpr ⟨fun r hr => ?_, fun _ _ => ht⟩
    rw [hr] at ht
    cases ht
  unfold reachRetention
  dsimp only
  have base : ∀ q : Sequencer, q.dram.held = true → BandLaw (judgeRange (s.setSeq q) range) := fun q hq =>
    reached _ (by rw [State.core_dram (judgeRange_core (s.setSeq q) range)]; exact hq)
  split
  · next h =>
    rw [Bool.and_eq_true] at h
    exact (restoreDram_keeps h.2).band (base _ rfl)
  · exact base _ rfl

theorem issueRefresh_keeps (s : State) : SeqKeeps s (issueRefresh s) :=
  .stay rfl (.inl rfl) rfl (le_trans (Nat.sub_le _ _)) id

theorem enterSelfRefresh_keeps {s : State} (range : Range) (hb : BanksLaw s → s.seq.banks = allClosed) (hd : Departs s)
    (hcool : s.thermal.band.cool = true) (hret : s.seq.retEntry = none) : SeqKeeps s (enterSelfRefresh s range) :=
  .move (fun h _ => hb h) (fun _ _ => ⟨hcool, hret⟩) (.inr ⟨hd, id⟩) id id

theorem finalStep_keeps {s : State} (purpose : EntryPurpose) (hb : BanksLaw s → s.seq.banks = allClosed)
    (hd : Departs s) : SeqKeeps s (finalStep s purpose) := by
  unfold finalStep
  split
  · exact reachRetention_keeps s _
  · exact reachRetention_keeps s _
  · next hret =>
    split
    · next hband => exact enterSelfRefresh_keeps _ hb hd (by rw [hband]; rfl) hret
    · next hband => exact enterSelfRefresh_keeps _ hb hd (by rw [hband]; rfl) hret
    · exact .wakeful hd rfl rfl (Nat.zero_le _) rfl
    · exact .wakeful hd rfl rfl (Nat.zero_le _) rfl

/-- The debt is paid, or there is none, only once every bank is CLOSED (R143). -/
theorem payDebt_keeps {s : State} (purpose : EntryPurpose) (hb : BanksLaw s → s.seq.banks = allClosed)
    (hd : Departs s) : SeqKeeps s (payDebt s purpose) := by
  unfold payDebt
  split
  · exact SeqKeeps.move (fun _ _ => rfl) (fun _ h => by cases h) (.inr ⟨hd, id⟩) (le_trans (Nat.sub_le _ _)) id
  · exact finalStep_keeps purpose hb hd

theorem banks_eq_allClosed {q : Sequencer} (h : anyBankOpen q = false) : q.banks = allClosed := by
  unfold anyBankOpen at h
  rw [List.any_eq_false] at h
  apply Vector.ext
  intro i hi
  have := h q.banks[i] (by simp)
  simpa [allClosed] using this

theorem closeBanks_keeps {s : State} (purpose : EntryPurpose) (hd : Departs s) : SeqKeeps s (closeBanks s purpose) := by
  unfold closeBanks
  split
  · exact .wakeful hd rfl rfl le_rfl rfl
  · next h => exact payDebt_keeps purpose (fun _ => banks_eq_allClosed (Bool.eq_false_iff.mpr h)) hd

theorem srExpiryIdle_keeps {s : State} (hd : Departs s) : SeqKeeps s (srExpiryIdle s) := by
  unfold srExpiryIdle
  split
  · exact SeqKeeps.after (closeBanks_keeps .selfRefresh hd) rfl
  · exact .of_core rfl

theorem grant_keeps {s : State} (p : Port) (hready : s.seq.dram = .ready) : SeqKeeps s (grant s p) := by
  unfold grant
  split
  · exact .refl s
  · refine (SeqKeeps.closed.fifo s p _).trans
      (.wakeful (departs_of_dram hready rfl) ?_ rfl le_rfl rfl)
    exact (congrArg DramState.dozing hready).trans rfl

theorem chooseAmong_keeps {s : State} (hready : s.seq.dram = .ready) : SeqKeeps s (chooseAmong s) := by
  unfold chooseAmong
  split
  · exact .refl s
  · split
    · exact SeqKeeps.after (issueRefresh_keeps _) rfl
    · split
      · exact grant_keeps _ hready
      · split
        · exact issueRefresh_keeps s
        · exact .refl s

theorem arbiter_keeps (s : State) : SeqKeeps s (arbiter s) := by
  unfold arbiter
  split
  · next h =>
    rw [Bool.and_eq_true, decide_eq_true_eq] at h
    exact (SeqKeeps.closed.dropBreaches s).trans
      (chooseAmong_keeps ((dropBreaches_onlyStarts s).dram.trans h.1))
  · exact .refl s

theorem startDue_keeps (s : State) : SeqKeeps s (startDue s) := by
  unfold startDue
  split
  · exact arbiter_keeps s
  · exact .refl s

theorem reach_keeps (s : State) (d : Nat) : SeqKeeps s (s.reach d) := by
  unfold State.reach
  split
  · exact SeqKeeps.trans (startDue_keeps s) (.of_core rfl)
  · exact .of_core rfl

theorem reachTimer_keeps (s : State) (x : Option Timer) : SeqKeeps s (s.reachTimer x) := by
  unfold State.reachTimer
  split
  · exact reach_keeps s _
  · exact .refl s

theorem startIdle_keeps {s : State} (hready : s.seq.dram = .ready) : SeqKeeps s (startIdle s) := by
  unfold startIdle
  dsimp only
  split
  · exact .of_core rfl
  · split
    · exact .of_core rfl
    · split
      · exact SeqKeeps.after (srExpiryIdle_keeps (departs_of_dram hready rfl)) rfl
      · exact .of_core rfl

theorem dram_of_idleNow {s : State} (h : idleNow s = true) : s.seq.dram = .ready := by
  simp only [idleNow, Bool.and_eq_true, decide_eq_true_eq] at h
  exact h.1.1.1.1

theorem updateIdle_keeps (s : State) : SeqKeeps s (updateIdle s) := by
  unfold updateIdle
  split
  · next h =>
    split
    · exact .refl s
    · exact startIdle_keeps (dram_of_idleNow h)
  · split
    · exact .of_core rfl
    · exact .refl s

theorem leavePowerDown_keeps {s : State} {k : PdKind} (hdram : s.seq.dram = .powerDown k) :
    SeqKeeps s (leavePowerDown s k) :=
  beginWake_keeps _ (departs_of_dram hdram rfl) fun h => by cases h

theorem actPdCause_keeps {s : State} {k : PdKind} (c : PdCause) (hdram : s.seq.dram = .powerDown k) :
    SeqKeeps s (actPdCause s k c) := by
  unfold actPdCause
  split
  · exact leavePowerDown_keeps hdram
  · exact leavePowerDown_keeps hdram
  · split
    · exact .wakeful (departs_of_dram hdram rfl) rfl rfl le_rfl rfl
    · exact .refl s

theorem pdCause_keeps (s : State) (c : PdCause) : SeqKeeps s (pdCause s c) := by
  unfold pdCause
  split
  · next hdram =>
    split
    · split
      · exact .refl s
      · exact .of_core rfl
    · exact actPdCause_keeps c hdram
  · exact .refl s

theorem takeKept_keeps (s : State) (c : PdCause) : SeqKeeps s (takeKept s c) := by
  unfold takeKept
  split
  · next hdram =>
    split
    · exact actPdCause_keeps c hdram
    · exact .refl s
  · exact .refl s

theorem turnToReady_keeps {s : State} {src : WakeFrom} (hdram : s.seq.dram = .waking .selfRefresh src) :
    SeqKeeps s (s.setSeq { s.seq with dram := .waking .ready src }) := by
  refine .move (fun h hdoze => banksLaw_iff.mp h ?_) (fun _ h => by cases h)
    (.inr ⟨departs_of_dram hdram rfl, id⟩) id id
  rw [hdram]
  cases src <;> exact hdoze

theorem wakeFromSelfRefresh_keeps {s : State} {r : Range} (target : WakeTarget) (hdram : s.seq.dram = .selfRefresh r) :
    SeqKeeps s (beginWake s target .selfRefresh 700) :=
  beginWake_keeps 700 (departs_of_dram hdram rfl) fun _ => hdram ▸ rfl

theorem wakeForHeads_keeps (s : State) : SeqKeeps s (wakeForHeads s) := by
  unfold wakeForHeads
  split
  · next hdram =>
    unfold headsInPowerDown
    split
    · exact .of_core rfl
    · split
      · exact leavePowerDown_keeps hdram
      · exact .refl s
  · next hdram =>
    split
    · exact wakeFromSelfRefresh_keeps _ hdram
    · exact .refl s
  · next hdram =>
    split
    · exact turnToReady_keeps hdram
    · exact .refl s
  · exact .refl s

theorem settle_keeps (s : State) : SeqKeeps s (settle s) :=
  (arbiter_keeps s).trans ((updateIdle_keeps _).trans (wakeForHeads_keeps _))

theorem retainPowerDown_keeps (s : State) : SeqKeeps s (retainPowerDown s) := by
  unfold retainPowerDown
  split
  · next hdram =>
    split
    · exact leavePowerDown_keeps hdram
    · exact .refl s
  · exact .refl s

end Sys2Proof.Machine
end

section
/-! PROOFS. The laws of the Memory Sequencer and of the parameters along retention entries, samples, losses and every
command, and the three invariants of steps that follow (R121, R147; R127, R128, R35). -/

namespace Sys2Proof.Machine

/-! ### Retention entries and warm restarts -/

theorem bandLaw_of_entry {s : State} (hdram : ∀ r, s.seq.dram ≠ .selfRefresh r) (hret : s.seq.retEntry ≠ none) :
    BandLaw s := bandLaw_iff.mpr ⟨fun r h => (hdram r h).elim, fun _ h => (hret h).elim⟩

theorem bandLaw_of_held {s : State} (h : s.seq.dram.held = true) : BandLaw s :=
  by
  refine bandLaw_iff.mpr ⟨fun r hr => ?_, fun _ _ => h⟩
  rw [hr] at h
  cases h

theorem enterRetention_keeps {s : State} {d : DramState} (why : RetReason) (hdram : s.seq.dram = d)
    (hsleep : ∀ r, d ≠ .selfRefresh r) : SeqKeeps s (enterRetention s why) where
  banks := id
  band _ := bandLaw_of_entry (fun r h => hsleep r (hdram.symm.trans h)) (Option.some_ne_none _)
  debt := id
  params := id

theorem beginRetention_keeps (s : State) (why : RetReason) : SeqKeeps s (beginRetention s why) := by
  unfold beginRetention
  split
  · next hdram => exact enterRetention_keeps why hdram fun _ h => by cases h
  · next hdram => exact enterRetention_keeps why hdram fun _ h => by cases h
  · next hdram => exact enterRetention_keeps why hdram fun _ h => by cases h
  · next hdram =>
    exact (enterRetention_keeps why hdram fun _ h => by cases h).trans (retainPowerDown_keeps _)
  · next range hdram =>
    have hreach := reachRetention_keeps (enterRetention s why) range
    exact ⟨hreach.banks, fun _ => bandLaw_reachRetention _ _, hreach.debt, hreach.params⟩
  · next hdram =>
    refine .move (fun h _ => banksLaw_iff.mp h ?_) (fun _ h => by cases h) (.inl rfl) id id
    rw [hdram]
    rfl
  · exact abortInit_keeps s
  · split
    · exact .move (fun _ h => by cases h) (fun _ h => by cases h) (.inl rfl) id id
    · exact .refl s
  · exact .refl s

/-- A retention entry for a warm restart leaves the DRAM held, or the entry running (R172). -/
theorem bandLaw_beginRetention_restart (s : State) : BandLaw (beginRetention s .restart) := by
  unfold beginRetention
  split
  · next hdram => exact bandLaw_of_entry (fun r h => by cases hdram.symm.trans h) (Option.some_ne_none _)
  · next hdram => exact bandLaw_of_entry (fun r h => by cases hdram.symm.trans h) (Option.some_ne_none _)
  · next hdram => exact bandLaw_of_entry (fun r h => by cases hdram.symm.trans h) (Option.some_ne_none _)
  · next hdram =>
    exact (retainPowerDown_keeps _).band
      (bandLaw_of_entry (fun r h => by cases hdram.symm.trans h) (Option.some_ne_none _))
  · exact bandLaw_reachRetention _ _
  · exact bandLaw_of_held rfl
  · exact bandLaw_of_held rfl
  · exact bandLaw_of_held rfl
  · next hdram => exact bandLaw_of_held (by rw [hdram]; rfl)

theorem beginRestart_keeps (s : State) (c : ResetCause) : SeqKeeps s (beginRestart s c) := by
  have begun : SeqKeeps s (beginRetention { s with restart := .begun c } .restart) :=
    have h := beginRetention_keeps { s with restart := .begun c } .restart
    ⟨h.banks, fun _ => bandLaw_beginRetention_restart _, h.debt, h.params⟩
  exact begun.trans (.after ((SeqKeeps.closed.silenceAll _).trans (settle_keeps _)) rfl)

/-! ### Temperature -/

/-- A new temperature keeps the laws unless it catches the DRAM in SELF_REFRESH too warm. -/
theorem thermal_keeps {s : State} {x : Thermal} (h : ∀ r, s.seq.dram = .selfRefresh r → x.band.cool = true) :
    SeqKeeps s { s with thermal := x } where
  banks := id
  band hs := by
    obtain ⟨hsleep, hheld⟩ := bandLaw_iff.mp hs
    exact bandLaw_iff.mpr ⟨fun r hr => ⟨h r hr, (hsleep r hr).2⟩, hheld⟩
  debt := id
  params := id

theorem bandChanged_keeps (s : State) : SeqKeeps s (bandChanged s) := by
  unfold bandChanged
  split
  · next hdram _ => exact wakeFromSelfRefresh_keeps _ hdram
  · next hdram _ => exact wakeFromSelfRefresh_keeps _ hdram
  · next hdram _ => exact wakeFromSelfRefresh_keeps _ hdram
  · next hdram _ => exact turnToReady_keeps hdram
  · next hdram _ => exact turnToReady_keeps hdram
  · exact .of_core (judgeRange_core s _)
  · exact .refl s

/-- A band that turns HOT or UNKNOWN over SELF_REFRESH wakes the DRAM (R147). -/
theorem bandChanged_of_warm {s : State} {r : Range} (hdram : s.seq.dram = .selfRefresh r)
    (hband : s.thermal.band.cool = false) : bandChanged s = beginWake s .ready .selfRefresh 700 := by
  unfold bandChanged
  rw [hdram]
  cases hb : s.thermal.band
  · rw [hb] at hband; cases hband
  · rw [hb] at hband; cases hband
  · rfl
  · rfl

/-- What the posts of a band change leave: the sample's state but for the ports. -/
theorem announceBand_eq (s : State) : ∃ u, OffPorts s u ∧ announceBand s = settle (bandChanged u) := by
  unfold announceBand
  dsimp only
  have posted := postAll_offPorts s (.thermal s.thermal.band s.thermal.reading)
  split
  · exact ⟨_, posted.trans (postSupervisor_offPorts _ _), rfl⟩
  · exact ⟨_, posted, rfl⟩

theorem takeSample_keeps (s : State) (r : Option Int) : SeqKeeps s (takeSample s r) := by
  unfold takeSample
  dsimp only
  generalize hx : (⟨validReading r, bandOfSample s.params s.thermal.band (validReading r), some (s.timer 1000000), true⟩
    : Thermal) = x
  split
  · next hband =>
    refine .of_core ?_
    simp only [State.core, ← hx, hband]
    rfl
  · obtain ⟨u, hu, heq⟩ := announceBand_eq { s with thermal := x }
    rw [heq]
    refine SeqKeeps.trans ?_ (settle_keeps _)
    by_cases hsleep : ∃ range, s.seq.dram = .selfRefresh range
    · obtain ⟨range, hdram⟩ := hsleep
      cases hcool : x.band.cool
      · have hdram' : u.seq.dram = .selfRefresh range := hu.seq ▸ hdram
        have hcool' : u.thermal.band.cool = false := hu.thermal ▸ hcool
        rw [bandChanged_of_warm hdram' hcool']
        have woken : SeqKeeps s (beginWake { u with thermal := s.thermal } .ready .selfRefresh 700) :=
          (wakeFromSelfRefresh_keeps _ (s := { u with thermal := s.thermal }) hdram').after (by
            simp only [State.core, hu.seq, hu.params]
            exact congrArg (fun b => (s.seq.dram, s.seq.banks, s.seq.debt, s.seq.overruns, s.seq.retEntry,
              s.thermal.band, b, s.params)) hu.isRunning)
        exact woken.trans (thermal_keeps (x := u.thermal) fun _ h => by cases h)
      · exact (thermal_keeps fun _ _ => hcool).trans ((SeqKeeps.offPorts hu).trans (bandChanged_keeps u))
    · exact (thermal_keeps fun range h => (hsleep ⟨range, h⟩).elim).trans
        ((SeqKeeps.offPorts hu).trans (bandChanged_keeps u))

/-! ### Losses and frames -/

theorem loseSession_keeps (s : State) (p : Port) (c : LossCause) (keep : Option Tag) :
    SeqKeeps s (loseSession s p c keep) := by
  unfold loseSession
  dsimp only
  have lost : SeqKeeps s (loseLeases (loseEntries (closeLost s p keep) p (s.session p).number) p
      (s.session p).number) :=
    SeqKeeps.after ((SeqKeeps.closed.loseEntries _ _ _).trans (SeqKeeps.closed.loseLeases _ _ _)) rfl
  split
  · exact lost
  · exact lost.trans (SeqKeeps.closed.postSupervisor _ _)

theorem restartIf_keeps (s : State) (due : Bool) : SeqKeeps s (restartIf s due) := by
  unfold restartIf
  split
  · exact beginRestart_keeps s _
  · exact .refl s

theorem loseEvent_keeps (s : State) (p : Port) (c : LossCause) : SeqKeeps s (loseEvent s p c) :=
  (loseSession_keeps _ _ _ _).trans ((settle_keeps _).trans (restartIf_keeps _ _))

theorem badFrame_keeps (s : State) (p : Port) (c : NakCause) : SeqKeeps s (badFrame s p c) := by
  unfold badFrame
  dsimp only
  have counted := (setLink_offPorts s p { s.link p with badFrames := (s.link p).badFrames + 1 }).trans
    (handRefusal_offPorts _ p .nak (nakFrame ((s.link p).badFrames + 1) c))
  split
  · exact .offPorts counted
  · split
    · exact SeqKeeps.trans (.offPorts (counted.trans (setLink_offPorts _ _ _))) (loseEvent_keeps _ _ _)
    · exact .offPorts (counted.trans (setLink_offPorts _ _ _))

theorem SeqKeeps.leadsAfter {s t : State} {o : Host.Outcome State Fault Refusal} (h : SeqKeeps s t)
    (g : Leads SeqKeeps t o) : Leads SeqKeeps s o := fun u hu => h.trans (g u hu)

theorem hearFrames_keeps (p : Port) (k : State → Host.Outcome State Fault Refusal)
    (hk : ∀ t, t.isRunning = true → Leads SeqKeeps t (k t)) :
    ∀ (ends : List RxEvent) (s : State), Leads SeqKeeps s (hearFrames p k ends s)
  | [], s => .next (.refl s)
  | .bad c :: rest, s => by
    unfold hearFrames
    split
    · exact (badFrame_keeps s p c).leadsAfter (hearFrames_keeps p k hk rest _)
    · exact .next (.refl s)
  | .good _ :: rest, s => by
    unfold hearFrames
    split
    · next hrun =>
      have good := reportGood_offPorts s p
      intro u hu
      unfold andThen at hu
      split at hu
      · next t ht =>
        have handled := hk _ (good.isRunning.trans hrun) t ht
        exact ((SeqKeeps.offPorts good).trans handled).leadsAfter (hearFrames_keeps p k hk rest t) u hu
      · cases hu
      · cases hu
    · exact .next (.refl s)

theorem receive_keeps (p : Port) (f : Frame) (s : State) (k : State → Host.Outcome State Fault Refusal)
    (hk : ∀ t, t.isRunning = true → Leads SeqKeeps t (k t)) : Leads SeqKeeps s (receive p f s k) := by
  unfold receive
  dsimp only
  split
  · exact (SeqKeeps.offPorts (setLink_offPorts _ _ _)).leadsAfter (hearFrames_keeps p k hk _ _)
  · exact .next (.refl s)

/-- A request keeps the laws if its owner does, which serves it only while the hub runs (R172). -/
theorem request_keeps (p : Port) (k : Kind) (tb : Byte) (pl : List Byte)
    (owner : State → Request → Host.Outcome State Fault Refusal) (s : State)
    (ho : ∀ t q, t.isRunning = true → Leads SeqKeeps t (owner t q)) :
    Leads SeqKeeps s (request p k tb pl owner s) := by
  refine receive_keeps _ _ _ _ fun t hrun => ?_
  unfold routeRequest
  split
  · exact .next (.offPorts (refuse_offPorts _ _ _ _))
  · dsimp only
    split
    · exact .next (.offPorts ((takeTag_offPorts _ _ _).trans (answer_offPorts _ _ _)))
    · exact (SeqKeeps.offPorts (takeTag_offPorts _ _ _)).leadsAfter (ho _ _ hrun)

theorem withFields_keeps {α : Type} (s : State) (q : Request) (rd : List Byte → Option α) (act : α → State)
    (h : ∀ f, SeqKeeps s (act f)) : Leads SeqKeeps s (withFields s q rd act) := by
  unfold withFields
  split
  · exact .next (h _)
  · exact .next (.offPorts (answer_offPorts _ _ _))

end Sys2Proof.Machine
end

section
/-! PROOFS. Every command keeps the laws of the Memory Sequencer and of the parameters (R35, R121, R127, R128, R147). -/

namespace Sys2Proof.Machine

/-! ### Requests -/

theorem openAndReply_keeps (s : State) (q : Request) (f : HelloFields) : SeqKeeps s (openAndReply s q f) :=
  .offPorts (OffPorts.trans (setPort_offPorts _ _ _) (reply_offPorts _ _ _))

theorem serveHello_keeps (s : State) (q : Request) (f : HelloFields) : SeqKeeps s (serveHello s q f) := by
  unfold serveHello
  dsimp only
  split
  · exact .offPorts (answer_offPorts _ _ _)
  · split
    · exact (loseSession_keeps _ _ _ _).trans ((settle_keeps _).trans
        ((openAndReply_keeps _ _ _).trans (restartIf_keeps _ _)))
    · exact openAndReply_keeps _ _ _

theorem serveEvict_keeps (s : State) (q : Request) (b : Byte) : SeqKeeps s (serveEvict s q b) := by
  unfold serveEvict
  split
  · exact .offPorts (answer_offPorts _ _ _)
  · split
    · exact .offPorts (answer_offPorts _ _ _)
    · dsimp only
      split
      · exact (SeqKeeps.offPorts (answer_offPorts _ _ _)).trans (loseEvent_keeps _ _ _)
      · exact .offPorts (answer_offPorts _ _ _)

/-- A value that is admitted keeps every parameter in its range (R35). -/
theorem paramsLaw_store {s : State} {id : ParamId} {v : Nat} (ha : s.params.admits id v = true) (hs : ParamsLaw s) :
    ParamsLaw { s with params := s.params.store id v } := by
  obtain ⟨hkeep, hwindow, hprio, hpd, hsr, hwater, hwarm, hhot⟩ := hs
  have keepPrio : ∀ q : Port, v ≤ 3 → ∀ p, (s.params.priority.set q v).get p ≤ 3 := fun q hv p => by
    rw [get_set]
    split
    · exact hv
    · exact hprio p
  cases id <;>
    simp only [Params.admits, Bool.or_eq_true, Bool.and_eq_true, beq_iff_eq, decide_eq_true_eq] at ha <;>
    simp only [ParamsLaw, Params.store]
  case keepaliveMs => exact ⟨ha, hwindow, hprio, hpd, hsr, hwater, hwarm, hhot⟩
  case acceptWindowMs => exact ⟨hkeep, ha, hprio, hpd, hsr, hwater, hwarm, hhot⟩
  case priority q => exact ⟨hkeep, hwindow, keepPrio q ha, hpd, hsr, hwater, hwarm, hhot⟩
  case pagePolicy => exact ⟨hkeep, hwindow, hprio, hpd, hsr, hwater, hwarm, hhot⟩
  case pdIdle100ns => exact ⟨hkeep, hwindow, hprio, ha, hsr, hwater, hwarm, hhot⟩
  case srIdleMs => exact ⟨hkeep, hwindow, hprio, hpd, ha, hwater, hwarm, hhot⟩
  case pdExit => exact ⟨hkeep, hwindow, hprio, hpd, hsr, hwater, hwarm, hhot⟩
  case refreshHighWater => exact ⟨hkeep, hwindow, hprio, hpd, hsr, ha, hwarm, hhot⟩
  case warmThreshold => exact ⟨hkeep, hwindow, hprio, hpd, hsr, hwater, ha.1, ha.2, hhot.2⟩
  case hotThreshold => exact ⟨hkeep, hwindow, hprio, hpd, hsr, hwater, hwarm, ha⟩
  case resumePolicy => exact ⟨hkeep, hwindow, hprio, hpd, hsr, hwater, hwarm, hhot⟩

theorem serveSetParam_keeps (s : State) (q : Request) (f : SetParamFields) : SeqKeeps s (serveSetParam s q f) := by
  unfold serveSetParam
  split
  · exact .offPorts (answer_offPorts _ _ _)
  · next x _ =>
    split
    · next ha =>
      have stored : SeqKeeps s { s with params := s.params.store x f.value } := ⟨id, id, id, paramsLaw_store ha⟩
      refine stored.trans (SeqKeeps.trans ?_ (.offPorts (answer_offPorts _ _ _)))
      unfold storeEffect
      split
      · exact pdCause_keeps _ _
      · exact .refl _
    · exact .offPorts (answer_offPorts _ _ _)

theorem serveDefine_keeps (s : State) (q : Request) (f : DefineFields) : SeqKeeps s (serveDefine s q f) := by
  unfold serveDefine
  split
  · dsimp only
    split
    · exact .offPorts (answer_offPorts _ _ _)
    · split
      · exact .offPorts (answer_offPorts _ _ _)
      · exact SeqKeeps.after (.offPorts (reply_offPorts _ _ _)) rfl
  · exact .offPorts (answer_offPorts _ _ _)

theorem withRegion_keeps (s : State) (q : Request) (b : Byte) (act : RegionId → Region → State)
    (h : ∀ i r, SeqKeeps s (act i r)) : SeqKeeps s (withRegion s q b act) := by
  unfold withRegion
  split
  · exact h _ _
  · exact .offPorts (answer_offPorts _ _ _)

theorem serveAlter_keeps (s : State) (q : Request) (f : AlterFields) : SeqKeeps s (serveAlter s q f) := by
  refine withRegion_keeps _ _ _ _ fun i r => ?_
  split
  · exact .offPorts (answer_offPorts _ _ _)
  · exact SeqKeeps.after (.offPorts (answer_offPorts _ _ _)) rfl

theorem serveDelete_keeps (s : State) (q : Request) (b : Byte) : SeqKeeps s (serveDelete s q b) := by
  refine withRegion_keeps _ _ _ _ fun i r => ?_
  split
  · exact SeqKeeps.after (.offPorts (answer_offPorts _ _ _)) rfl
  · exact .offPorts (answer_offPorts _ _ _)

theorem revokeJoined_keeps (s : State) (i : RegionId) (x : Holder) (b : Bool) : SeqKeeps s (revokeJoined s i x b) := by
  unfold revokeJoined
  split
  · exact SeqKeeps.closed.revokeHolder _ _ _
  · exact .refl s

theorem serveClaim_keeps (s : State) (q : Request) (f : ClaimFields) : SeqKeeps s (serveClaim s q f) := by
  refine withRegion_keeps _ _ _ _ fun i r => ?_
  split
  · split
    · exact .offPorts (answer_offPorts _ _ _)
    · split
      · exact .offPorts (answer_offPorts _ _ _)
      · split
        · exact SeqKeeps.after ((SeqKeeps.closed.reply _ _ _).trans
            ((SeqKeeps.closed.trigger _ _).trans (revokeJoined_keeps _ _ _ _))) rfl
        · exact SeqKeeps.after ((SeqKeeps.closed.reply _ _ _).trans (SeqKeeps.closed.trigger _ _)) rfl
  · exact .offPorts (answer_offPorts _ _ _)

theorem yieldToJoined_keeps (s : State) (i : RegionId) (r : Region) (x : Holder) :
    SeqKeeps s (yieldToJoined s i r x) := by
  unfold yieldToJoined
  split
  · exact SeqKeeps.closed.postYield _ _ _ _
  · exact .refl s

theorem serveAccept_keeps (s : State) (q : Request) (b : Byte) : SeqKeeps s (serveAccept s q b) := by
  refine withRegion_keeps _ _ _ _ fun i r => ?_
  split
  · exact SeqKeeps.after ((SeqKeeps.closed.reply _ _ _).trans ((yieldToJoined_keeps _ _ _ _).trans
      ((SeqKeeps.closed.trigger _ _).trans (revokeJoined_keeps _ _ _ _)))) rfl
  · exact .offPorts (answer_offPorts _ _ _)

theorem serveWithdraw_keeps (s : State) (q : Request) (b : Byte) : SeqKeeps s (serveWithdraw s q b) := by
  refine withRegion_keeps _ _ _ _ fun i r => ?_
  split
  · exact SeqKeeps.after ((SeqKeeps.closed.answer _ _ _).trans (SeqKeeps.closed.trigger _ _)) rfl
  · exact .offPorts (answer_offPorts _ _ _)

theorem editRegion_core (s : State) (i : RegionId) (f : Region → Region) : (s.editRegion i f).core = s.core := by
  unfold State.editRegion
  split <;> rfl

theorem serveRelease_keeps (s : State) (q : Request) (b : Byte) : SeqKeeps s (serveRelease s q b) := by
  refine withRegion_keeps _ _ _ _ fun i r => ?_
  split
  · unfold releaseHolder
    split
    · exact .of_core (editRegion_core _ _ _)
    · split
      · exact .offPorts (answer_offPorts _ _ _)
      · split
        · exact .of_core (editRegion_core _ _ _)
        · exact (SeqKeeps.closed.removeHolder _ _ _).trans
            ((SeqKeeps.closed.answer _ _ _).trans (SeqKeeps.closed.settleRegion _ _))
  · exact .offPorts (answer_offPorts _ _ _)

theorem serveRevoke_keeps (s : State) (q : Request) (b : Byte) : SeqKeeps s (serveRevoke s q b) := by
  have held : ∀ i r, SeqKeeps s (revokeHeld s q i r) := fun i r =>
    SeqKeeps.after ((SeqKeeps.closed.answer _ _ _).trans
      ((SeqKeeps.closed.revokeAll _ _ _).trans (settle_keeps _))) rfl
  refine withRegion_keeps _ _ _ _ fun i r => ?_
  split
  · exact .offPorts (answer_offPorts _ _ _)
  · exact .offPorts (answer_offPorts _ _ _)
  · exact .offPorts (answer_offPorts _ _ _)
  · exact held i r
  · exact held i r
  · exact held i r

theorem serveUnfence_keeps (s : State) (q : Request) (b : Byte) : SeqKeeps s (serveUnfence s q b) := by
  refine withRegion_keeps _ _ _ _ fun i r => ?_
  split
  · exact SeqKeeps.after ((SeqKeeps.closed.reply _ _ _).trans (SeqKeeps.closed.trigger _ _)) rfl
  · exact .offPorts (answer_offPorts _ _ _)

theorem admitTx_keeps (s : State) (p : Port) (e : Entry) : SeqKeeps s (admitTx s p e) :=
  (arbiter_keeps s).trans (.after ((updateIdle_keeps _).trans (wakeForHeads_keeps _)) rfl)

theorem takeTx_keeps (s : State) (k : TxKind) (q : Request) : SeqKeeps s (takeTx s k q) := by
  unfold takeTx
  split
  · exact .offPorts (answer_offPorts _ _ _)
  · split
    · split
      · exact .offPorts (answer_offPorts _ _ _)
      · split
        · exact .offPorts (answer_offPorts _ _ _)
        · split
          · exact .offPorts (answer_offPorts _ _ _)
          · exact admitTx_keeps _ _ _
    · exact .offPorts (answer_offPorts _ _ _)

theorem serveTx_keeps (s : State) (k : TxKind) (q : Request) : Leads SeqKeeps s (serveTx s k q) := by
  unfold serveTx
  split
  · exact .next (takeTx_keeps _ _ _)
  · split
    · exact .next (.of_core rfl)
    · exact .fault _

/-- A DRAM that an accepted REINIT prepares keeps its banks and has no debt (R131). -/
theorem prepareInit_keeps {s : State} (step : InitStep) (timer : Option Timer) (hd : Departs s) :
    SeqKeeps s (prepareInit s step timer) := .wakeful hd rfl rfl (Nat.zero_le _) rfl

theorem acceptReinit_keeps {s t : State} (hrun : s.isRunning = true) (h : acceptReinit s = some t) : SeqKeeps s t := by
  have hd : Departs s := .inl hrun
  unfold acceptReinit at h
  split at h
  · split at h
    · cases h; exact startInit_keeps hd
    · cases h
  · split at h
    · split at h
      · cases h; exact prepareInit_keeps _ _ hd
      · cases h; exact startInit_keeps hd
    · cases h
  · split at h
    · split at h
      · cases h; exact prepareInit_keeps _ _ hd
      · cases h; exact prepareInit_keeps _ _ hd
    · cases h
  all_goals cases h

theorem serveReinit_keeps {s : State} (q : Request) (hrun : s.isRunning = true) : SeqKeeps s (serveReinit s q) := by
  unfold serveReinit
  split
  · next t ht => exact (acceptReinit_keeps hrun ht).trans (.of_core rfl)
  · exact .offPorts (answer_offPorts _ _ _)

theorem serveResume_keeps {s : State} (q : Request) (hrun : s.isRunning = true) : SeqKeeps s (serveResume s q) := by
  have answered := answer_offPorts s q.replyTo
  unfold serveResume
  split
  · exact .offPorts (answered _)
  · dsimp only
    split
    · next hdram =>
      exact (SeqKeeps.offPorts (answered _)).trans
        (wakeRetention_keeps ((answered _).isRunning.trans hrun) hdram)
    · exact .offPorts (answered _)

theorem serveClearSuspect_keeps (s : State) (q : Request) : SeqKeeps s (serveClearSuspect s q) := by
  unfold serveClearSuspect
  split
  · exact SeqKeeps.after (.offPorts ((answer_offPorts _ _ _).trans (postAll_offPorts _ _))) rfl
  · exact .offPorts (answer_offPorts _ _ _)

/-- Every owner keeps the laws, while the hub runs. -/
theorem ownerOf_keeps (k : Kind) (s : State) (q : Request) (hrun : s.isRunning = true) :
    Leads SeqKeeps s (ownerOf k s q) := by
  cases k <;> dsimp only [ownerOf]
  case hello => exact withFields_keeps _ _ _ _ fun f => serveHello_keeps _ _ _
  case leave => exact withFields_keeps _ _ _ _ fun f => .of_core rfl
  case ping => exact withFields_keeps _ _ _ _ fun f => .offPorts (answer_offPorts _ _ _)
  case status => exact withFields_keeps _ _ _ _ fun f => .offPorts (reply_offPorts _ _ _)
  case setParam => exact withFields_keeps _ _ _ _ fun f => serveSetParam_keeps _ _ _
  case getParam =>
    refine withFields_keeps _ _ _ _ fun f => ?_
    unfold serveGetParam
    split <;> exact .offPorts (reply_offPorts _ _ _)
  case defineRegion => exact withFields_keeps _ _ _ _ fun f => serveDefine_keeps _ _ _
  case alterRegion => exact withFields_keeps _ _ _ _ fun f => serveAlter_keeps _ _ _
  case deleteRegion => exact withFields_keeps _ _ _ _ fun f => serveDelete_keeps _ _ _
  case queryRegion =>
    exact withFields_keeps _ _ _ _ fun f => withRegion_keeps _ _ _ _ fun _ _ => .offPorts (reply_offPorts _ _ _)
  case claim => exact withFields_keeps _ _ _ _ fun f => serveClaim_keeps _ _ _
  case accept => exact withFields_keeps _ _ _ _ fun f => serveAccept_keeps _ _ _
  case withdraw => exact withFields_keeps _ _ _ _ fun f => serveWithdraw_keeps _ _ _
  case release => exact withFields_keeps _ _ _ _ fun f => serveRelease_keeps _ _ _
  case revoke => exact withFields_keeps _ _ _ _ fun f => serveRevoke_keeps _ _ _
  case unfence => exact withFields_keeps _ _ _ _ fun f => serveUnfence_keeps _ _ _
  case read => exact serveTx_keeps _ _ _
  case write => exact serveTx_keeps _ _ _
  case fill => exact serveTx_keeps _ _ _
  case reinit => exact withFields_keeps _ _ _ _ fun f => serveReinit_keeps _ hrun
  case resume => exact withFields_keeps _ _ _ _ fun f => serveResume_keeps _ hrun
  case clearSuspect => exact withFields_keeps _ _ _ _ fun f => serveClearSuspect_keeps _ _
  case restart => exact withFields_keeps _ _ _ _ fun f => .offPorts (handReply_offPorts _ _ _ _ _)
  case evictPort => exact withFields_keeps _ _ _ _ fun f => serveEvict_keeps _ _ _

theorem requestCommand_keeps (k : Kind) (p : Port) (tb : Byte) (pl : List Byte) (s : State) :
    Leads SeqKeeps s (exec (requestCommand k p tb pl) s) := by
  rw [exec_requestCommand]
  exact request_keeps _ _ _ _ _ _ (ownerOf_keeps k)

/-! ### Resets -/

theorem resetSequencer_dram (s : State) : (resetSequencer s).dram = s.seq.dram := by
  unfold resetSequencer
  dsimp only
  split <;> rfl

theorem resetSequencer_retEntry (s : State) : (resetSequencer s).retEntry = s.seq.retEntry := by
  unfold resetSequencer
  dsimp only
  split
  · rfl
  · next h => exact (Option.not_isSome_iff_eq_none.mp h).symm

theorem resetSequencer_overruns (s : State) : (resetSequencer s).overruns = 0 := by
  unfold resetSequencer
  dsimp only
  split <;> rfl

/-- Over a warm restart the banks and the debt are kept together, or both at reset (R173). -/
theorem resetSequencer_cases (s : State) :
    ((resetSequencer s).banks = s.seq.banks ∧ (resetSequencer s).debt = s.seq.debt) ∨
      ((resetSequencer s).banks = allClosed ∧ (resetSequencer s).debt = 0) := by
  unfold resetSequencer
  dsimp only
  split
  · exact .inl ⟨rfl, rfl⟩
  · exact .inr ⟨rfl, rfl⟩

theorem paramsLaw_reset {s : State} (h : s.params = Params.reset) : ParamsLaw s := by
  unfold ParamsLaw
  rw [h]
  refine ⟨.inl rfl, by decide, fun p => by cases p <;> decide, by decide, by decide, by decide, by decide, by decide⟩

theorem not_selfRefresh_of_stopped {s : State} (hs : BandLaw s) (hrun : s.isRunning = false) (r : Range) :
    s.seq.dram ≠ .selfRefresh r := fun hr => by
  obtain ⟨hsleep, hheld⟩ := bandLaw_iff.mp hs
  have := hheld hrun (hsleep r hr).2
  rw [hr] at this
  cases this

/-- The reset of a warm restart keeps the laws: SELF_REFRESH is no state in which it finds the DRAM (R172, R173). -/
theorem resetBlocks_keeps {s : State} (c : ResetCause) (hrun : s.isRunning = false) :
    SeqKeeps s (resetBlocks s c) where
  banks h := by
    refine banksLaw_iff.mpr fun hdoze => ?_
    have hdram : (resetBlocks s c).seq.dram = s.seq.dram := resetSequencer_dram s
    obtain ⟨hbanks, -⟩ | ⟨hbanks, -⟩ := resetSequencer_cases s
    · exact hbanks.trans (banksLaw_iff.mp h (hdram ▸ hdoze))
    · exact hbanks
  band h := by
    have hdram : (resetBlocks s c).seq.dram = s.seq.dram := resetSequencer_dram s
    have hret : (resetBlocks s c).seq.retEntry = s.seq.retEntry := resetSequencer_retEntry s
    refine bandLaw_iff.mpr ⟨fun r hr => (not_selfRefresh_of_stopped h hrun r (hdram ▸ hr)).elim, fun _ hnone => ?_⟩
    rw [hdram]
    exact (bandLaw_iff.mp h).2 hrun (hret ▸ hnone)
  debt h := by
    refine ⟨?_, (resetSequencer_overruns s).le.trans (Nat.zero_le _)⟩
    obtain ⟨-, hdebt⟩ | ⟨-, hdebt⟩ := resetSequencer_cases s
    · exact hdebt.le.trans h.1
    · exact hdebt.le.trans (Nat.zero_le _)
  params _ := paramsLaw_reset rfl

theorem release_keeps {s : State} (x : Straps) (hrun : s.isRunning = false) : SeqKeeps s (release s x) where
  banks := id
  band h := bandLaw_iff.mpr ⟨fun r hr => (not_selfRefresh_of_stopped h hrun r hr).elim, fun h => by cases h⟩
  debt := id
  params := id

theorem powerOn_keeps (s : State) (now g : Nat) (x : Straps) (q : List Instr) :
    SeqKeeps s (State.powerOn now g x q) where
  banks _ := trivial
  band _ := bandLaw_of_held rfl
  debt _ := ⟨Nat.zero_le 8, Nat.zero_le 65535⟩
  params _ := paramsLaw_reset rfl

end Sys2Proof.Machine
end

section
/-! PROOFS. The events of the Memory Sequencer, the Thermal Monitor and the Clock Supervisor keep the laws, and so does
every command: the invariants of steps (R35, R121, R127, R128, R147). -/

namespace Sys2Proof.Machine

/-! ### Operations of the Sequencer's events -/

@[simp] theorem reachTimer_dram (s : State) (x : Option Timer) : (s.reachTimer x).seq.dram = s.seq.dram := by
  unfold State.reachTimer
  split
  · exact reach_dram s _
  · rfl

@[simp] theorem endOp_dram (s : State) : (endOp s).seq.dram = s.seq.dram := reachTimer_dram s _

theorem endOp_keeps (s : State) : SeqKeeps s (endOp s) := (reachTimer_keeps s _).trans (.of_core rfl)

theorem departs_endOp {s : State} {d : DramState} (h : s.seq.dram = d) (hd : d.held = false) : Departs (endOp s) :=
  departs_of_dram ((endOp_dram s).trans h) hd

theorem banks_endOp_of_dozing {s : State} {d : DramState} (h : s.seq.dram = d) (hd : d.dozing = true)
    (hs : BanksLaw (endOp s)) : (endOp s).seq.banks = allClosed :=
  banksLaw_iff.mp hs ((congrArg DramState.dozing ((endOp_dram s).trans h)).trans hd)

theorem wakeReady_keeps {s : State} (hd : Departs s) : SeqKeeps s (wakeReady s) := by
  refine SeqKeeps.trans ?_ (settle_keeps _)
  exact .wakeful hd rfl rfl le_rfl rfl

/-- A tick raises a debt below 8, and at 8 counts an overrun, up to 65,535 (R127, R128). -/
theorem raiseDebt_keeps (s : State) : SeqKeeps s (raiseDebt s) := by
  unfold raiseDebt
  split
  · unfold overrun
    dsimp only
    have counted : SeqKeeps s { s with
        memory := s.memory.losingCharge
        seq := { s.seq with overruns := min 65535 (s.seq.overruns + 1) } } :=
      SeqKeeps.after (t := { s with memory := s.memory.losingCharge })
        (.stay rfl (.inr rfl) rfl id fun _ => Nat.min_le_left _ _) rfl
    exact counted.trans ((SeqKeeps.offPorts (postSupervisor_offPorts _ _)).trans (.of_core (markSuspect_core _)))
  · next h => exact .stay rfl (.inr rfl) rfl (fun _ => Nat.lt_of_not_le h) id

theorem tickDebt_keeps (s : State) : SeqKeeps s (tickDebt s) := by
  unfold tickDebt
  split
  · exact raiseDebt_keeps s
  · exact raiseDebt_keeps s
  · refine (raiseDebt_keeps s).trans ?_
    unfold tickPowerDown
    split
    · exact pdCause_keeps _ _
    · exact .refl _
  all_goals exact .refl s

theorem initSucceeds_keeps {s : State} (hdram : s.seq.dram = .initializing .training) :
    SeqKeeps s (initSucceeds s) := by
  unfold initSucceeds
  dsimp only
  have trained : SeqKeeps s { s with
      memory := s.memory.withPatterns
      seq := { s.seq with
        dram := .ready, banks := allClosed, debt := 0, condition := .fresh, srRef := some s.now, reinit := none } } :=
    SeqKeeps.after (t := { s with memory := s.memory.withPatterns })
      (.wakeful (departs_of_dram hdram rfl) rfl rfl (Nat.zero_le _) rfl) rfl
  split
  · exact trained.trans ((SeqKeeps.offPorts ((postAll_offPorts _ _).trans (answer_offPorts _ _ _))).trans
      (settle_keeps _))
  · exact trained.trans (settle_keeps _)

theorem initFails_keeps {s : State} (hdram : s.seq.dram = .initializing .training) : SeqKeeps s (initFails s) := by
  unfold initFails
  dsimp only
  have failed : SeqKeeps s { s with
      memory := s.memory.withPatterns
      seq := { s.seq with dram := .failed, reinit := none } } :=
    SeqKeeps.after (t := { s with memory := s.memory.withPatterns })
      (.wakeful (departs_of_dram hdram rfl) rfl rfl le_rfl rfl) rfl
  split
  · exact failed.trans (.offPorts ((postSupervisor_offPorts _ _).trans (answer_offPorts _ _ _)))
  · exact failed.trans (.offPorts (postSupervisor_offPorts _ _))

theorem advanceHead_keeps (s : State) (p : Port) (e : Entry) (rest : List Entry) :
    SeqKeeps s (advanceHead s p e rest) := by
  unfold advanceHead
  dsimp only
  split
  · exact SeqKeeps.after (SeqKeeps.closed.endEntry _ _ _ _ _) rfl
  · split
    · exact SeqKeeps.after (SeqKeeps.closed.endEntry _ _ _ _ _) rfl
    · exact .of_core rfl

/-- A burst is issued only in READY: a bank that its precharge closes is none that R121 speaks of, or was CLOSED. -/
theorem prechargeAfter_keeps (s : State) (m : Memory) (a : Nat) (pre : Bool) :
    SeqKeeps s { s with memory := m, seq := prechargeAfter s.seq a pre } := by
  refine ⟨fun h => banksLaw_iff.mpr fun hdoze => ?_, id, id, id⟩
  have hclosed := banksLaw_iff.mp h hdoze
  unfold prechargeAfter
  cases pre
  · exact hclosed
  · simp only [if_true, hclosed, allClosed]
    apply Vector.ext
    intro i hi
    simp

theorem endBurst_keeps (s : State) : Leads SeqKeeps s (endBurst s) := by
  unfold endBurst
  split
  · split
    · exact .next (.refl s)
    · split
      · exact .fault _
      · exact .next ((prechargeAfter_keeps s _ _ _).trans ((advanceHead_keeps _ _ _ _).trans (settle_keeps _)))
  · exact .next (.refl s)
  · exact .next (.refl s)

theorem failReinit_keeps (s : State) : SeqKeeps s (failReinit s) := by
  unfold failReinit
  split
  · exact SeqKeeps.after (.offPorts (answer_offPorts _ _ _)) rfl
  · exact .refl s

theorem loseReference_keeps (s : State) : SeqKeeps s (loseReference s) := by
  unfold loseReference
  dsimp only
  have stopped : SeqKeeps s (if entersRetention s.seq.dram then retainAll { s with retentionHold := true } else s) := by
    split
    · exact SeqKeeps.after (SeqKeeps.closed.retainAll _) rfl
    · exact .refl s
  exact stopped.trans ((beginRetention_keeps _ _).trans ((failReinit_keeps _).trans
    ((settle_keeps _).trans (.offPorts (postAll_offPorts _ _)))))

theorem restoreReference_keeps (s : State) : SeqKeeps s (restoreReference s) := by
  unfold restoreReference
  dsimp only
  have posted := postAll_offPorts { s with clock := { s.clock with ref := .locked, lockTimer := none } } .refRestored
  refine SeqKeeps.after ((SeqKeeps.offPorts posted).trans (SeqKeeps.trans ?_ (settle_keeps _))) rfl
  split
  · next hrun => exact restoreDram_keeps hrun
  · exact .refl _

theorem closeOrderly_offPorts (s : State) (p : Port) (u : Tag) : OffPorts s (closeOrderly s p u) :=
  OffPorts.trans (setLink_offPorts s p { s.link p with cache := noReplies })
    ((reply_offPorts _ _ _).trans (setPort_offPorts _ _ _))

/-! ### Commands -/

theorem execRefreshComplete_keeps (s : State) : Leads SeqKeeps s (execRefreshComplete s) := by
  unfold execRefreshComplete
  split
  · dsimp only
    have ended : SeqKeeps s ((endOp s).setSeq { (endOp s).seq with
        bus := .free, urgent := (endOp s).seq.urgent && decide (0 < (endOp s).seq.debt) }) :=
      (endOp_keeps s).trans (.of_core rfl)
    split
    · next hdram =>
      refine .next (ended.trans ((payDebt_keeps _ (fun h => ?_) (departs_of_dram hdram rfl)).trans (settle_keeps _)))
      exact banksLaw_iff.mp h ((congrArg DramState.dozing hdram).trans rfl)
    · next hdram => exact .next (ended.trans (startInit_keeps (departs_of_dram hdram rfl)))
    · exact .next (ended.trans (settle_keeps _))
  · exact .next (.refl s)

theorem execPdTimerExpiry_keeps (s : State) : Leads SeqKeeps s (execPdTimerExpiry s) := by
  unfold execPdTimerExpiry
  split
  · next x _ =>
    split
    · next hdram =>
      refine .next ((reach_keeps s x.deadline).trans (SeqKeeps.trans ?_ (settle_keeps _)))
      exact .wakeful (departs_of_dram ((reach_dram s x.deadline).trans hdram) rfl) rfl rfl le_rfl rfl
    · exact .next (.refl s)
  · exact .next (.refl s)

theorem execSrTimerExpiry_keeps (s : State) : Leads SeqKeeps s (execSrTimerExpiry s) := by
  unfold execSrTimerExpiry
  split
  · next x _ =>
    dsimp only
    split
    · next hdram =>
      exact .next ((reach_keeps s _).trans
        ((srExpiryIdle_keeps (departs_of_dram hdram rfl)).trans (settle_keeps _)))
    · exact .next ((reach_keeps s _).trans (SeqKeeps.after (pdCause_keeps _ _) rfl))
    · exact .next (.refl s)
  · exact .next (.refl s)

theorem execPdResidencyEnd_keeps (s : State) : Leads SeqKeeps s (execPdResidencyEnd s) := by
  unfold execPdResidencyEnd
  split
  · next x _ =>
    dsimp only
    split
    · next hdram =>
      refine .next ((reach_keeps s x.deadline).trans ?_)
      exact .wakeful (departs_of_dram hdram rfl) rfl rfl le_rfl rfl
    · exact .next ((reach_keeps s x.deadline).trans (SeqKeeps.after
        ((SeqKeeps.foldl _ takeKept_keeps _ _).trans ((retainPowerDown_keeps _).trans (settle_keeps _))) rfl))
  · exact .next (.refl s)

theorem execPdExitComplete_keeps (s : State) : Leads SeqKeeps s (execPdExitComplete s) := by
  unfold execPdExitComplete
  split
  · next hdram =>
    refine .next ((endOp_keeps s).trans (SeqKeeps.trans ?_ (settle_keeps _)))
    exact .wakeful (departs_endOp hdram rfl) rfl rfl le_rfl rfl
  · next hdram =>
    exact .next ((endOp_keeps s).trans ((closeBanks_keeps _ (departs_endOp hdram rfl)).trans (settle_keeps _)))
  · next hdram => exact .next ((endOp_keeps s).trans (startInit_keeps (departs_endOp hdram rfl)))
  · exact .next (.refl s)

theorem execBankCloseComplete_keeps (s : State) : Leads SeqKeeps s (execBankCloseComplete s) := by
  unfold execBankCloseComplete
  split
  · next hdram =>
    have closed : SeqKeeps (endOp s) ((endOp s).setSeq { (endOp s).seq with banks := allClosed }) :=
      .stay rfl (.inl rfl) rfl id id
    refine .next ((endOp_keeps s).trans (closed.trans (SeqKeeps.trans ?_ (settle_keeps _))))
    exact payDebt_keeps _ (fun _ => rfl) (departs_endOp hdram rfl)
  · exact .next (.refl s)

theorem execWakeComplete_keeps (s : State) : Leads SeqKeeps s (execWakeComplete s) := by
  unfold execWakeComplete
  split
  · next hdram => exact .next ((endOp_keeps s).trans (wakeReady_keeps (departs_endOp hdram rfl)))
  · next hdram =>
    split
    · exact .next ((endOp_keeps s).trans (wakeReady_keeps (departs_endOp hdram rfl)))
    · exact .next ((endOp_keeps s).trans
        ((payDebt_keeps _ (banks_endOp_of_dozing hdram rfl) (departs_endOp hdram rfl)).trans (settle_keeps _)))
  · next hdram =>
    exact .next ((endOp_keeps s).trans (SeqKeeps.after (wakeReady_keeps (departs_endOp hdram rfl)) rfl))
  · exact .next (.refl s)

theorem execGapTimeout_keeps (p : Port) (bs : List Byte) (s : State) :
    Leads SeqKeeps s (execGapTimeout p bs s) := by
  unfold execGapTimeout
  dsimp only
  split
  · intro u hu
    unfold andThen at hu
    split at hu
    · next t ht =>
      have heard := hearFrames_keeps p .next (fun t _ => .next (.refl t)) _ _ t ht
      refine ((SeqKeeps.offPorts (setLink_offPorts s p _)).trans heard).leadsAfter ?_ u hu
      unfold expireGap
      split
      · exact .next ((reachTimer_keeps _ _).trans
          ((SeqKeeps.offPorts (setLink_offPorts _ _ _)).trans (badFrame_keeps _ _ _)))
      · exact .next (.refl t)
    · cases hu
    · cases hu
  · exact .next (.refl s)

theorem execTransactionEndReport_keeps (s : State) : Leads SeqKeeps s (execTransactionEndReport s) := by
  unfold execTransactionEndReport
  split
  · split
    · exact .next (.refl s)
    · exact .next (SeqKeeps.after (SeqKeeps.closed.takeReport _ _) rfl)
  · exact .next (.refl s)

theorem execResetAsserted_keeps (s : State) : Leads SeqKeeps s (execResetAsserted s) := by
  unfold execResetAsserted
  split
  · exact .next (.refl s)
  · dsimp only
    split
    · exact .next (SeqKeeps.after (beginRestart_keeps _ _) rfl)
    · next c hc =>
      refine .next (.of_core ?_)
      have hrun : s.isRunning = false := by simp [State.isRunning, show s.restart = _ from hc]
      simp only [State.core, hrun]
      rfl
    · exact .next (.of_core rfl)

theorem execWarmRestartReset_keeps (x : Straps) (s : State) : Leads SeqKeeps s (execWarmRestartReset x s) := by
  unfold execWarmRestartReset
  split
  · next c hc =>
    have hrun : s.isRunning = false := by simp [State.isRunning, hc]
    split
    · exact .next (.refl s)
    · dsimp only
      split
      · exact .next ((resetBlocks_keeps c hrun).trans (release_keeps x rfl))
      · exact .next (resetBlocks_keeps c hrun)
  · exact .next (.refl s)
  · exact .next (.refl s)

theorem execResetReleased_keeps (x : Straps) (s : State) : Leads SeqKeeps s (execResetReleased x s) := by
  unfold execResetReleased
  split
  · exact .next (.refl s)
  · dsimp only
    split
    · next hr =>
      have hrun : ({ s with resetPin := .high } : State).isRunning = false := by
        simp [State.isRunning, show s.restart = _ from hr]
      exact .next (SeqKeeps.after (release_keeps x hrun) rfl)
    · exact .next (.of_core rfl)
    · exact .next (.of_core rfl)

/-- Every command keeps the laws of the Sequencer and of the parameters. -/
theorem exec_keeps (c : Instr) (s : State) : Leads SeqKeeps s (exec c s) := by
  cases c
  case powerOn x => exact .next (powerOn_keeps s _ _ x _)
  case resetAsserted => exact execResetAsserted_keeps s
  case warmRestartReset x => exact execWarmRestartReset_keeps x s
  case resetReleased x => exact execResetReleased_keeps x s
  case gapTimeout p bs => exact execGapTimeout_keeps p bs s
  case badFrame p bs =>
    show Leads SeqKeeps s (execBadFrame p bs s)
    unfold execBadFrame
    dsimp only
    split
    · exact (SeqKeeps.offPorts (setLink_offPorts s p _)).leadsAfter
        (hearFrames_keeps p .next (fun t _ => .next (.refl t)) _ _)
    · exact .next (.refl s)
  case badKindFrame p k tb pl =>
    show Leads SeqKeeps s (execBadKindFrame p k tb pl s)
    unfold execBadKindFrame
    split
    · exact .next (.refl s)
    · exact receive_keeps _ _ _ _ fun t _ => .next (.offPorts (refuse_offPorts _ _ _ _))
  case credit p tb pl =>
    refine receive_keeps _ _ _ _ fun t _ => ?_
    split
    · split
      · exact .next (.offPorts ((setLink_offPorts _ _ _).trans (arbitrate_offPorts _ _)))
      · exact .next (.refl t)
    · exact .next (.refl t)
  case resend p tb pl =>
    refine receive_keeps _ _ _ _ fun t _ => ?_
    split
    · refine .next (.offPorts ?_)
      unfold resendReply
      dsimp only
      split
      · exact refuse_offPorts _ _ _ _
      · split
        · exact refuse_offPorts _ _ _ _
        · split
          · exact OffPorts.refl t
          · exact (setLink_offPorts _ _ _).trans (arbitrate_offPorts _ _)
    · exact .next (.refl t)
  case hello p tb pl => exact requestCommand_keeps .hello p tb pl s
  case leave p tb pl => exact requestCommand_keeps .leave p tb pl s
  case ping p tb pl => exact requestCommand_keeps .ping p tb pl s
  case status p tb pl => exact requestCommand_keeps .status p tb pl s
  case setParam p tb pl => exact requestCommand_keeps .setParam p tb pl s
  case getParam p tb pl => exact requestCommand_keeps .getParam p tb pl s
  case defineRegion p tb pl => exact requestCommand_keeps .defineRegion p tb pl s
  case alterRegion p tb pl => exact requestCommand_keeps .alterRegion p tb pl s
  case deleteRegion p tb pl => exact requestCommand_keeps .deleteRegion p tb pl s
  case queryRegion p tb pl => exact requestCommand_keeps .queryRegion p tb pl s
  case claim p tb pl => exact requestCommand_keeps .claim p tb pl s
  case accept p tb pl => exact requestCommand_keeps .accept p tb pl s
  case withdraw p tb pl => exact requestCommand_keeps .withdraw p tb pl s
  case release p tb pl => exact requestCommand_keeps .release p tb pl s
  case revoke p tb pl => exact requestCommand_keeps .revoke p tb pl s
  case unfence p tb pl => exact requestCommand_keeps .unfence p tb pl s
  case read p tb pl => exact requestCommand_keeps .read p tb pl s
  case write p tb pl => exact requestCommand_keeps .write p tb pl s
  case fill p tb pl => exact requestCommand_keeps .fill p tb pl s
  case reinit p tb pl => exact requestCommand_keeps .reinit p tb pl s
  case resume p tb pl => exact requestCommand_keeps .resume p tb pl s
  case clearSuspect p tb pl => exact requestCommand_keeps .clearSuspect p tb pl s
  case restart p tb pl => exact requestCommand_keeps .restart p tb pl s
  case evictPort p tb pl => exact requestCommand_keeps .evictPort p tb pl s
  case frameTransmitted p =>
    show Leads SeqKeeps s (execFrameTransmitted p s)
    unfold execFrameTransmitted
    split
    · exact .next (.refl s)
    · dsimp only
      split
      · exact .next (SeqKeeps.after (beginRestart_keeps _ _) rfl)
      · exact .next (.offPorts ((setLink_offPorts _ _ _).trans (arbitrate_offPorts _ _)))
  case silenceTimeout p =>
    show Leads SeqKeeps s (execSilenceTimeout p s)
    unfold execSilenceTimeout
    split
    · split
      · exact .next ((reach_keeps s _).trans (loseEvent_keeps _ _ _))
      · exact .next (.refl s)
    · exact .next (.refl s)
  case leaveDrainEnd p =>
    show Leads SeqKeeps s (execLeaveDrainEnd p s)
    unfold execLeaveDrainEnd
    split
    · split
      · exact .next ((SeqKeeps.closed.leaveLeases _ _ _).trans (.offPorts (closeOrderly_offPorts _ _ _)))
      · exact .next (.refl s)
    · exact .next (.refl s)
    · exact .next (.refl s)
  case offerDeadlineExpiry i =>
    show Leads SeqKeeps s (execOfferDeadlineExpiry i s)
    unfold execOfferDeadlineExpiry
    split
    · split
      · exact .next (.refl s)
      · split
        · exact .next (.refl s)
        · exact .next ((reach_keeps s _).trans (SeqKeeps.after
            ((SeqKeeps.closed.postEntry _ _ _ _ _).trans (SeqKeeps.closed.trigger _ _)) rfl))
    · exact .next (.refl s)
  case recallDeadlineExpiry i =>
    show Leads SeqKeeps s (execRecallDeadlineExpiry i s)
    unfold execRecallDeadlineExpiry
    split
    · split
      · exact .next (.refl s)
      · split
        · exact .next (.refl s)
        · exact .next ((reach_keeps s _).trans (SeqKeeps.after
            ((SeqKeeps.closed.revokeAll _ _ _).trans (settle_keeps _)) rfl))
    · exact .next (.refl s)
  case transactionEndReport => exact execTransactionEndReport_keeps s
  case admissionSlotRelease p =>
    show Leads SeqKeeps s (execAdmissionSlotRelease p s)
    unfold execAdmissionSlotRelease
    split
    · split
      · exact .next (.refl s)
      · split
        · exact .next (SeqKeeps.after (takeTx_keeps _ _ _) rfl)
        · exact .next (.refl s)
    · exact .next (.refl s)
  case burstComplete => exact (startDue_keeps s).leadsAfter (endBurst_keeps _)
  case refreshComplete => exact execRefreshComplete_keeps s
  case refreshTick =>
    exact .next ((reach_keeps s _).trans (SeqKeeps.after ((tickDebt_keeps _).trans (settle_keeps _)) rfl))
  case pdTimerExpiry => exact execPdTimerExpiry_keeps s
  case srTimerExpiry => exact execSrTimerExpiry_keeps s
  case pdResidencyEnd => exact execPdResidencyEnd_keeps s
  case pdExitComplete => exact execPdExitComplete_keeps s
  case bankCloseComplete => exact execBankCloseComplete_keeps s
  case wakeComplete => exact execWakeComplete_keeps s
  case resetHoldComplete =>
    show Leads SeqKeeps s (execResetHoldComplete s)
    unfold execResetHoldComplete
    split
    · next hdram => exact .next (.wakeful (departs_of_dram hdram rfl) rfl rfl le_rfl rfl)
    · exact .next (.refl s)
  case modeSettingComplete =>
    show Leads SeqKeeps s (execModeSettingComplete s)
    unfold execModeSettingComplete
    split
    · next hdram => exact .next (.wakeful (departs_of_dram hdram rfl) rfl rfl le_rfl rfl)
    · exact .next (.refl s)
  case trainingComplete a b =>
    show Leads SeqKeeps s (execTrainingComplete a b s)
    unfold execTrainingComplete
    split
    · next hdram =>
      split
      · exact .next (initSucceeds_keeps hdram)
      · exact .next (initFails_keeps hdram)
    · exact .next (.refl s)
  case thermalSample r =>
    show Leads SeqKeeps s (execThermalSample r s)
    unfold execThermalSample
    split
    · exact .next (.refl s)
    · split
      · exact .next (.refl s)
      · exact .next ((reach_keeps s _).trans (takeSample_keeps _ _))
  case lossWindowExpiry =>
    show Leads SeqKeeps s (execLossWindowExpiry s)
    unfold execLossWindowExpiry
    dsimp only
    split
    · exact .next (.refl s)
    · exact .next ((reach_keeps s _).trans (.of_core rfl))
    · exact .next ((reach_keeps s _).trans (SeqKeeps.after (loseReference_keeps _) rfl))
  case refEdge =>
    show Leads SeqKeeps s (execRefEdge s)
    unfold execRefEdge
    split <;> exact .next (.of_core rfl)
  case lockTimerExpiry =>
    show Leads SeqKeeps s (execLockTimerExpiry s)
    unfold execLockTimerExpiry
    split
    · exact .next ((reach_keeps s _).trans (restoreReference_keeps _))
    · exact .next (.refl s)
  case retentionDrainEnd =>
    show Leads SeqKeeps s (execRetentionDrainEnd s)
    unfold execRetentionDrainEnd
    split
    · next h => exact .next ((closeBanks_keeps _ (departs_of_dram h.1 rfl)).trans (settle_keeps _))
    · exact .next (.refl s)

theorem step_keeps (s : State) : Leads SeqKeeps s (step s) := by
  unfold step
  split
  · exact .next (reach_keeps s _)
  · exact fun t ht => (exec_keeps _ _ t ht).after rfl

/-- Settles O6: SELF_REFRESH and RETENTION are entered with every bank CLOSED, and no burst is granted in them. -/
theorem banksStayClosedAsleep : Obligations.BanksStayClosedAsleep := fun s t hs h => (step_keeps s t h).banks hs

/-- Settles O7: an entry ends in SELF_REFRESH only in a cool band, and a band that turns wakes the DRAM. -/
theorem selfRefreshOnlyWhenCool : Obligations.SelfRefreshOnlyWhenCool := fun s t hs h => (step_keeps s t h).band hs

/-- Settles O10: only a tick raises the debt and the overrun count, and only SET_PARAM stores a parameter. -/
theorem debtAndParametersStayInRange : Obligations.DebtAndParametersStayInRange :=
  ⟨fun s t hs h => (step_keeps s t h).debt hs, fun s t hs h => (step_keeps s t h).params hs⟩

end Sys2Proof.Machine
end

section
/-! PROOFS. The front of the queue, the reset state, and the report of a good frame (R10, R31, R175). -/

namespace Sys2Proof.Machine

/-! ### Steps and resets -/

/-- Settles O1: a step takes the front command and runs it on the state with the queue's rest. -/
theorem stepTakesTheFrontCommand : Obligations.StepTakesTheFrontCommand := fun _ _ => rfl

theorem portAtReset_reset : PortAtReset PortState.reset where
  rx := rfl
  badFrames := rfl
  tags u := by simp [PortState.reset, Link.reset, Link.entry]
  cache u := by simp [PortState.reset, Link.reset, Link.cached]
  credit := rfl
  responses := rfl
  tx := rfl
  session := rfl
  notices := rfl
  fifo := rfl
  slot := rfl

theorem supervisorPort_index (x : Straps) : Port.index (supervisorPort x) = x.sup.toNat := by
  obtain ⟨sup, _, _⟩ := x
  have : ∀ v : BitVec 2, Port.index (supervisorPort ⟨v, false, false⟩) = v.toNat := by decide
  exact this sup

/-- A state whose ports, parameters, regions and reports are at reset. -/
theorem blocksAtReset_of {t : State} (hports : t.ports = ⟨PortState.reset, PortState.reset, PortState.reset, PortState.reset⟩)
    (hparams : t.params = Params.reset) (hregions : t.regions = Vector.replicate 32 none) (hreports : t.reports = []) :
    BlocksAtReset t t.bootCause where
  ports p := by
    have : t.port p = PortState.reset := by
      unfold State.port
      rw [hports]
      cases p <;> rfl
    rw [this]
    exact portAtReset_reset
  cause := rfl
  params := hparams
  regions i := by simp [State.region, hregions]
  reports := hreports

theorem allClosed_get (b : Fin 8) : allClosed[b.val] = .closed := by simp [allClosed]

theorem atPowerOn_powerOn (now g : Nat) (x : Straps) (q : List Instr) : AtPowerOn (State.powerOn now g x q) x where
  blocks := blocksAtReset_of (t := State.powerOn now g x q) rfl rfl rfl rfl
  running := rfl
  straps := rfl
  supervisor := supervisorPort_index x
  hold := rfl
  dram := rfl
  banks := allClosed_get
  debt := rfl
  overruns := rfl
  condition := rfl
  lastServed := rfl
  bus := rfl
  tick := rfl
  timers := ⟨rfl, rfl, rfl, rfl, rfl⟩
  entry := rfl
  thermal := rfl
  reference := rfl
  lock := rfl

/-- Settles O3: POWER_ON answers the power-on state, whatever stood before. -/
theorem powerOnResetsEveryBlock : Obligations.PowerOnResetsEveryBlock := fun _ _ =>
  ⟨_, rfl, atPowerOn_powerOn _ _ _ _, rfl⟩

/-- Settles O4: the reset state is a power-on state, with no region and every list empty. -/
theorem resetMeetsEveryLaw : Obligations.ResetMeetsEveryLaw := by
  obtain ⟨hregions, hfit⟩ : RegionsSound State.reset := .of_empty fun _ => powerOn_region _ _ _ _ _
  have hports : ∀ p, State.reset.port p = PortState.reset := fun p => by cases p <;> rfl
  refine ⟨atPowerOn_powerOn _ _ _ _, rfl, rfl, rfl, trivial, bandLaw_of_held rfl, hregions, hfit, fun p => ?_,
    ⟨Nat.zero_le _, Nat.zero_le _⟩, paramsLaw_reset rfl, fun p => ?_⟩
  · rw [hports p]
    exact ⟨by decide, by decide, by decide, by decide, by decide⟩
  · unfold State.link
    rw [hports p]
    exact idle_sound

/-! ### The report of a good frame -/

theorem reportGood_session (s : State) (p : Port) :
    (reportGood s p).session p =
      if (s.session p).state = .opened then
        { s.session p with
          silence := if s.params.keepaliveMs = 0 then none else some (s.timer (ms s.params.keepaliveMs)) }
      else s.session p := by
  unfold reportGood
  dsimp only
  split
  · next h => simp only [session_setLink] at h; simp [h, State.timer]; rfl
  · next h => simp only [session_setLink] at h; simp [h]
  · next h => simp only [session_setLink] at h; simp [h]

/-- Settles O14: the report writes the port's bad-frame count and, in an OPEN session, its silence timer. -/
theorem goodFramesRestartTheSilenceTimer : Obligations.GoodFramesRestartTheSilenceTimer := fun s p =>
  ⟨reportGood_offPorts s p, fun _ hq => reportGood_port_ne s hq, reportGood_link s p, reportGood_notices s p p,
    reportGood_fifo s p p, reportGood_slot s p p, reportGood_session s p⟩

end Sys2Proof.Machine
end

section
/-! PROOFS. Frames that are rejected, and requests that are answered before their owner (R4 to R6, R10, R18). -/

namespace Sys2Proof.Machine

/-! ### Frames -/

theorem hear_after_noise (now : Nat) {noise : List Byte} (rest : List Byte) (h : startMarker ∉ noise) :
    Receiver.idle.hear now (noise ++ rest) = Receiver.idle.hear now rest := by
  rw [hear_append, hear_noise now noise h]
  rfl

/-- Settles O13: the noise leaves HUNT as it is, the bytes of the frame end it as bad, and the rest is heard from
HUNT. -/
theorem receiverRejectsBadFrames : Obligations.ReceiverRejectsBadFrames := by
  refine ⟨fun now noise tail f lo hi hnoise hlen hcrc => ?_, fun now noise tail k t l0 l1 hnoise hlong => ?_⟩
  · obtain ⟨k, t, pl⟩ := f
    have hl : u16 (BitVec.ofNat 8 pl.length) (BitVec.ofNat 8 (pl.length / 256)) = pl.length :=
      u16_le16 _ (lt_of_le_of_lt hlen (by decide))
    have hbody : Frame.body ⟨k, t, pl⟩
        = k :: t :: BitVec.ofNat 8 pl.length :: BitVec.ofNat 8 (pl.length / 256) :: pl := by
      simp [Frame.body, le16]
    have hframe := hear_body now k t _ _ pl lo hi tail hl hlen
    rw [checkFrame_body k t _ _ pl lo hi hl, ← hbody, if_neg hcrc] at hframe
    rw [hear_after_noise now _ hnoise, ← hframe, hbody]
    simp only [List.cons_append]
  · rw [hear_after_noise now _ hnoise]
    exact hear_overlength now k t l0 l1 tail hlong

theorem exec_badKindFrame {s : State} {p : Port} {k : Byte} (tb : Byte) {pl : List Byte} (hk : clientKind k = false)
    (h : Hears s p) (hl : pl.length ≤ 320) :
    exec (.badKindFrame p k tb pl) s = .next (refuse (reportGood s p) p (tagOf tb) .badKind) := by
  have hexec : exec (.badKindFrame p k tb pl) s = execBadKindFrame p k tb pl s := rfl
  rw [hexec, execBadKindFrame, if_neg (Bool.eq_false_iff.mp hk), receive_heard s p _ _ h hl]

theorem exec_busyTag {s : State} {p : Port} (k : Kind) {tb : Byte} {pl : List Byte} {n : Option SessNo} (h : Hears s p)
    (hl : pl.length ≤ 320) (ht : (s.link p).entry (tagOf tb) = .taken n) :
    exec (requestCommand k p tb pl) s = .next (refuse (reportGood s p) p (tagOf tb) .tagBusy) := by
  rw [exec_requestCommand, request, receive_heard s p _ _ h hl, routeRequest, reportGood_entry, ht]

/-- Settles O16: a good frame of an unknown kind, and a request on a tag in flight, end in a REFUSE. -/
theorem unknownKindsAndBusyTagsAreRefused : Obligations.UnknownKindsAndBusyTagsAreRefused :=
  ⟨fun _ _ tb _ _ hk h hl => ⟨_, exec_badKindFrame tb hk h hl, refused_handRefusal _ _ _ _⟩,
    fun k _ _ _ _ _ h hl ht => ⟨_, exec_busyTag k h hl ht, refused_handRefusal _ _ _ _⟩⟩

/-! ### The session checks -/

/-- A request that fails a session check is answered with that check's status. -/
theorem answersStatus_of_sessionRefusal {s : State} {p : Port} {k : Kind} {tb : Byte} {pl : List Byte} {st : Status}
    (h : Takes s p tb pl) (hr : sessionRefusal (reportGood s p) p k = some st) :
    AnswersStatus (requestCommand k p tb pl) s (replyFor s p k tb) st := by
  refine answersStatus_of_answer _ s p k tb st ?_
  rw [exec_requestCommand, request_taken s p k tb pl _ h, hr]

/-- Settles O20: the session's state decides, and in an OPEN session the supervisor's port. -/
theorem sessionChecksAnswerFirst : Obligations.SessionChecksAnswerFirst := by
  intro k p tb pl s h hk
  have hsup : (reportGood s p).supervisor = s.supervisor := (reportGood_offPorts s p).supervisor
  refine ⟨fun hs => ?_, fun u hs => ?_, fun hs hk' hp => ?_⟩ <;> refine answersStatus_of_sessionRefusal h ?_ <;>
    rw [sessionRefusal, if_neg hk, reportGood_state, hs]
  rw [hsup, hk', decide_eq_true hp]
  rfl

/-! ### What a taken request finds of its port -/

@[simp] theorem afterTake_session_state (s : State) (p : Port) (tb : Byte) (q : Port) :
    ((afterTake s p tb).session q).state = (s.session q).state := by
  by_cases hq : q = p
  · subst hq; simp [afterTake, takeTag, reportGood_state]
  · simp [afterTake, takeTag, State.session, reportGood_port_ne s hq, State.setLink, port_setPort_ne _ _ hq]

@[simp] theorem afterTake_session_number (s : State) (p : Port) (tb : Byte) (q : Port) :
    ((afterTake s p tb).session q).number = (s.session q).number := by
  by_cases hq : q = p
  · subst hq; simp [afterTake, takeTag, reportGood_number]
  · simp [afterTake, takeTag, State.session, reportGood_port_ne s hq, State.setLink, port_setPort_ne _ _ hq]

theorem reportGood_label (s : State) (p : Port) : ((reportGood s p).session p).label = (s.session p).label := by
  rw [reportGood_session]
  split <;> rfl

@[simp] theorem afterTake_session_label (s : State) (p : Port) (tb : Byte) (q : Port) :
    ((afterTake s p tb).session q).label = (s.session q).label := by
  by_cases hq : q = p
  · subst hq; simp [afterTake, takeTag, reportGood_label]
  · simp [afterTake, takeTag, State.session, reportGood_port_ne s hq, State.setLink, port_setPort_ne _ _ hq]

@[simp] theorem afterTake_credit (s : State) (p : Port) (tb : Byte) (q : Port) :
    ((afterTake s p tb).link q).credit = (s.link q).credit := by
  by_cases hq : q = p
  · subst hq; simp [afterTake, takeTag, reportGood_link]
  · simp [afterTake, takeTag, State.link, reportGood_port_ne s hq, State.setLink, port_setPort_ne _ _ hq]

theorem afterTake_port_ne (s : State) {p q : Port} (tb : Byte) (hq : q ≠ p) : (afterTake s p tb).port q = s.port q :=
  (port_setPort_ne _ _ hq).trans (reportGood_port_ne s hq)

@[simp] theorem afterTake_live (s : State) (p : Port) (tb : Byte) (q : Port) :
    ((afterTake s p tb).session q).live = (s.session q).live := by
  simp [Session.live]

@[simp] theorem afterTake_present (s : State) (p : Port) (tb : Byte) (q : Port) :
    (afterTake s p tb).presentSession q = s.presentSession q := by
  simp [State.presentSession]

/-! ### PING and STATUS -/

theorem statusOfPort_afterTake (s : State) (p : Port) (tb : Byte) (q : Port) :
    statusOfPort (afterTake s p tb) q =
      [(s.session q).state.code, (s.session q).number, u8 (s.link q).credit, u8 (s.notices q).queue.length,
        u8 (s.notices q).lost] ++ labelField (s.session q).label := by
  simp only [statusOfPort, afterTake_session_state, afterTake_session_number, afterTake_session_label,
    afterTake_credit, afterTake_notices]

/-- Settles O25: taking the request has changed nothing that the snapshot shows. -/
theorem pingAndStatusAnswerOk : Obligations.PingAndStatusAnswerOk := by
  refine fun p tb s => ⟨fun h => ?_, fun h => ?_⟩
  · exact answersStatus_of_answer _ s p .ping tb .ok
      (exec_reaches (rd := readEmpty) (act := fun t q _ => answer t q.replyTo .ok) h rfl rfl)
  · have hexec := exec_reaches (rd := readEmpty) (act := fun t q _ => reply t q.replyTo (statusPayload t)) h rfl rfl
    have hpayload : ∀ t : State, statusPayload t = [Status.ok.code, t.clock.ref.code, t.thermal.band.code] ++
        readingField t.thermal.reading ++ [t.seq.dram.code, t.seq.dram.detail, t.seq.condition.code, u8 t.seq.debt] ++
        le16 t.seq.overruns ++ [portCode t.supervisor] ++ allPorts.flatMap (statusOfPort t) := fun _ => rfl
    rw [hpayload, funext (statusOfPort_afterTake s p tb), afterTake_clock, afterTake_thermal, afterTake_seq,
      afterTake_sup] at hexec
    exact answers_of_reply _ s p .status tb _ hexec

end Sys2Proof.Machine
end

section
/-! PROOFS. Requests whose encoding fails (R186): each reader against the payload layouts of section 12.2. -/

namespace Sys2Proof.Machine

/-- Whether the reader of a kind's owner refuses the payload. -/
def readerRefuses : Kind → List Byte → Bool
  | .hello, pl => (readHello pl).isNone
  | .setParam, pl => (readSetParam pl).isNone
  | .defineRegion, pl => (readDefine pl).isNone
  | .alterRegion, pl => (readAlter pl).isNone
  | .claim, pl => (readClaim pl).isNone
  | .read, pl => (readTx .read pl).isNone
  | .write, pl => (readTx .write pl).isNone
  | .fill, pl => (readTx .fill pl).isNone
  | .leave, pl | .ping, pl | .status, pl | .reinit, pl | .resume, pl | .clearSuspect, pl | .restart, pl =>
    (readEmpty pl).isNone
  | .getParam, pl | .deleteRegion, pl | .queryRegion, pl | .accept, pl | .withdraw, pl | .release, pl | .revoke, pl
  | .unfence, pl | .evictPort, pl => (readOne pl).isNone

/-! ### The owners -/

theorem fields_none {α : Type} {q : Request} {rd : List Byte → Option α}
    (h : anyFlag q.tagByte = true ∨ (rd q.payload).isNone = true) : q.fields rd = none := by
  unfold Request.fields
  split
  · rfl
  · next hflag => exact Option.isNone_iff_eq_none.mp (h.resolve_left hflag)

theorem withFields_none {α : Type} {s : State} {q : Request} {rd : List Byte → Option α} {act : α → State}
    (h : anyFlag q.tagByte = true ∨ (rd q.payload).isNone = true) :
    withFields s q rd act = .next (answer s q.replyTo .badFormat) := by
  simp only [withFields, fields_none h]

theorem serveTx_badFormat {s : State} {k : TxKind} {q : Request} (hroom : (s.fifo q.replyTo.port).length < 8)
    (h : anyFlag q.tagByte = true ∨ (readTx k q.payload).isNone = true) :
    serveTx s k q = .next (answer s q.replyTo .badFormat) := by
  simp only [serveTx, if_pos hroom, takeTx, fields_none h]

/-- Every owner answers BAD_FORMAT where a flag bit is set or its reader refuses the payload (R186). -/
theorem ownerOf_badFormat {s : State} {k : Kind} {q : Request}
    (hroom : k.tx.isSome = true → (s.fifo q.replyTo.port).length < 8)
    (h : anyFlag q.tagByte = true ∨ readerRefuses k q.payload = true) :
    ownerOf k s q = .next (answer s q.replyTo .badFormat) := by
  cases k
  case read => exact serveTx_badFormat (hroom rfl) h
  case write => exact serveTx_badFormat (hroom rfl) h
  case fill => exact serveTx_badFormat (hroom rfl) h
  all_goals exact withFields_none h

/-! ### The readers -/

theorem labelWellFormed_eq_false {length : Byte} {label : List Byte}
    (h : label.length ≠ length.toNat ∨ 16 < length.toNat ∨ ∃ b ∈ label, b.toNat < 0x20 ∨ 0x7E < b.toNat) :
    labelWellFormed length label = false := by
  rw [Bool.eq_false_iff]
  intro hw
  simp only [labelWellFormed, Bool.and_eq_true, beq_iff_eq, decide_eq_true_eq, List.all_eq_true] at hw
  obtain ⟨⟨hlen, hmax⟩, hprint⟩ := hw
  obtain h | h | ⟨b, hb, h⟩ := h
  · exact h hlen
  · omega
  · have := hprint b hb
    simp only [printable, Bool.and_eq_true, decide_eq_true_eq] at this
    omega

/-- A label that ends its payload wrongly is no well-formed one: `before` are the bytes before its length byte. -/
theorem labelWellFormed_of_badLabel {before label : List Byte} {length : Byte} {n : Nat} (hn : before.length = n)
    (h : BadLabel (before ++ length :: label) n) : labelWellFormed length label = false := by
  subst hn
  have hget : (before ++ length :: label).getD before.length 0 = length := by simp [List.getD_eq_getElem?_getD]
  have hdrop : (before ++ length :: label).drop (before.length + 1) = label := by
    rw [List.drop_append]
    simp
  simp only [BadLabel, hget, hdrop, List.length_append, List.length_cons] at h
  apply labelWellFormed_eq_false
  obtain hshort | hcount | hmax | hprint := h
  · omega
  · exact .inl (by omega)
  · exact .inr (.inl hmax)
  · exact .inr (.inr hprint)

theorem readHello_badLabel {pl : List Byte} (h : BadLabel pl 1) : (readHello pl).isNone = true := by
  match pl with
  | [] => rfl
  | [_] => rfl
  | c :: length :: label =>
    have hw : labelWellFormed length label = false := labelWellFormed_of_badLabel (before := [c]) rfl h
    simp [readHello, hw]

theorem readDefine_badLabel {pl : List Byte} (h : BadLabel pl 11) : (readDefine pl).isNone = true := by
  unfold readDefine
  split
  · next id b0 b1 c0 c1 c2 c3 shared r0 r1 loss length label =>
    have hw : labelWellFormed length label = false :=
      labelWellFormed_of_badLabel (before := [id, b0, b1, c0, c1, c2, c3, shared, r0, r1, loss]) rfl h
    simp [hw]
  · rfl

theorem readAlter_badLabel {pl : List Byte} (h : BadLabel pl 6) : (readAlter pl).isNone = true := by
  unfold readAlter
  split
  · next id presence r0 r1 loss shared length label =>
    have hw : labelWellFormed length label = false :=
      labelWellFormed_of_badLabel (before := [id, presence, r0, r1, loss, shared]) rfl h
    simp [hw]
  · rfl

/-- A presence bit above 3, or a label's length while bit 0 says that there is none (R186). -/
theorem readAlter_badPresence {pl : List Byte}
    (h : 16 ≤ (pl.getD 1 0).toNat ∨ ((pl.getD 1 0).getLsbD 0 = false ∧ pl.getD 6 0 ≠ 0)) :
    (readAlter pl).isNone = true := by
  unfold readAlter
  split
  · next id presence r0 r1 loss shared length label =>
    rw [if_neg]
    · rfl
    · intro hw
      simp only [Bool.and_eq_true, Bool.or_eq_true, decide_eq_true_eq, beq_iff_eq, labelWellFormed] at hw
      obtain ⟨⟨⟨⟨hlen, -⟩, -⟩, hpresence⟩, hlabel⟩ := hw
      obtain hbig | ⟨hbit, hlength⟩ := h
      · exact absurd hpresence (Nat.not_lt.mpr hbig)
      · obtain hbit' | rfl := hlabel
        · exact Bool.false_ne_true (hbit.symm.trans hbit')
        · exact hlength (BitVec.eq_of_toNat_eq hlen.symm)
  · rfl

theorem readEmpty_length {pl : List Byte} (h : pl.length ≠ 0) : (readEmpty pl).isNone = true := by
  unfold readEmpty
  split
  · exact absurd rfl h
  · rfl

theorem readOne_length {pl : List Byte} (h : pl.length ≠ 1) : (readOne pl).isNone = true := by
  unfold readOne
  split
  · exact absurd rfl h
  · rfl

theorem readClaim_length {pl : List Byte} (h : pl.length ≠ 2) : (readClaim pl).isNone = true := by
  unfold readClaim
  split
  · exact absurd rfl h
  · rfl

theorem readSetParam_length {pl : List Byte} (h : pl.length ≠ 3) : (readSetParam pl).isNone = true := by
  unfold readSetParam
  split
  · exact absurd rfl h
  · rfl

theorem readRead_length {pl : List Byte} (h : pl.length ≠ 9) : (readRead pl).isNone = true := by
  unfold readRead
  split
  · exact absurd rfl h
  · rfl

theorem readFill_length {pl : List Byte} (h : pl.length ≠ 12) : (readFill pl).isNone = true := by
  unfold readFill
  split
  · exact absurd rfl h
  · rfl

theorem readWrite_short {pl : List Byte} (h : pl.length < 8) : (readWrite pl).isNone = true := by
  unfold readWrite
  split
  · next id e0 e1 o0 o1 o2 o3 data =>
    have : data = [] := List.eq_nil_of_length_eq_zero (by simp only [List.length_cons] at h; omega)
    rw [if_pos this]
    rfl
  · rfl

theorem readerRefuses_fixedLength {k : Kind} {pl : List Byte} {n : Nat} (hk : fixedLength k = some n)
    (h : pl.length ≠ n) : readerRefuses k pl = true := by
  cases k <;> cases hk
  case claim => exact readClaim_length h
  case setParam => exact readSetParam_length h
  case read => exact readRead_length h
  case fill => exact readFill_length h
  case leave | ping | status | reinit | resume | clearSuspect | restart => exact readEmpty_length h
  case getParam | deleteRegion | queryRegion | accept | withdraw | release | revoke | unfence | evictPort =>
    exact readOne_length h

theorem readerRefuses_badLabel {k : Kind} {pl : List Byte} {n : Nat} (hk : labelAt k = some n)
    (h : BadLabel pl n) : readerRefuses k pl = true := by
  cases k <;> cases hk
  · exact readHello_badLabel h
  · exact readDefine_badLabel h
  · exact readAlter_badLabel h

/-! ### The answer -/

/-- A request that passes the checks of R18 reaches its owner; HELLO needs no session for that. -/
theorem exec_served {s : State} {p : Port} {k : Kind} {tb : Byte} {pl : List Byte} (h : Takes s p tb pl)
    (ha : k = .hello ∨ Admitted s p k) :
    exec (requestCommand k p tb pl) s = ownerOf k (afterTake s p tb) ⟨replyFor s p k tb, tb, pl⟩ := by
  obtain rfl | ha := ha
  · rw [exec_requestCommand, request_taken s p .hello tb pl _ h]
    rfl
  · exact exec_admitted s p k tb pl h ha

/-- Settles O21: each way of a wrong encoding sets a flag bit or is refused by the kind's reader. -/
theorem malformedRequestsAreAnsweredBadFormat : Obligations.MalformedRequestsAreAnsweredBadFormat := by
  intro k p tb pl s h ha hroom hbad
  have hrefused : anyFlag tb = true ∨ readerRefuses k pl = true := by
    obtain hflag | ⟨n, hk, hn⟩ | ⟨rfl, hshort⟩ | ⟨n, hk, hlabel⟩ | ⟨rfl, hpresence⟩ := hbad
    · exact .inl hflag
    · exact .inr (readerRefuses_fixedLength hk hn)
    · exact .inr (readWrite_short hshort)
    · exact .inr (readerRefuses_badLabel hk hlabel)
    · exact .inr (readAlter_badPresence hpresence)
  refine answersStatus_of_answer _ s p k tb .badFormat ((exec_served h ha).trans (ownerOf_badFormat ?_ hrefused))
  rwa [afterTake_fifo]

end Sys2Proof.Machine
end

section
/-! PROOFS. SET_PARAM (R35, R37). -/

namespace Sys2Proof.Machine

/-! ### Replies after other changes -/

theorem Answered.replied {s t : State} {r : ReplyTo} {pl : List Byte} (h : Answered s t r false pl) : Replied t r pl :=
  ⟨h.freed, h.cached, by rw [h.sent]; exact List.mem_append_right _ (List.mem_singleton_self _)⟩

theorem link_congr {s t : State} (h : t.ports = s.ports) (p : Port) : t.link p = s.link p :=
  congrArg PortState.link (port_congr h p)

theorem session_congr {s t : State} (h : t.ports = s.ports) (p : Port) : t.session p = s.session p :=
  congrArg PortState.session (port_congr h p)

theorem notices_congr {s t : State} (h : t.ports = s.ports) (p : Port) : t.notices p = s.notices p :=
  congrArg PortState.notices (port_congr h p)

theorem fifo_congr {s t : State} (h : t.ports = s.ports) (p : Port) : t.fifo p = s.fifo p :=
  congrArg PortState.fifo (port_congr h p)

theorem slot_congr {s t : State} (h : t.ports = s.ports) (p : Port) : t.slot p = s.slot p :=
  congrArg PortState.slot (port_congr h p)

/-- Whether a reply is accepted depends on the tables by port alone (R11). -/
theorem acceptsReply_congr {s t : State} (h : t.ports = s.ports) (r : ReplyTo) : acceptsReply t r = acceptsReply s r := by
  unfold acceptsReply State.presentSession
  rw [link_congr h, session_congr h]

/-! ### High water -/

@[simp] theorem pdCause_ports (s : State) (c : PdCause) : (pdCause s c).ports = s.ports := by
  unfold pdCause actPdCause leavePowerDown beginWake
  repeat' split
  all_goals rfl

@[simp] theorem pdCause_params (s : State) (c : PdCause) : (pdCause s c).params = s.params := by
  unfold pdCause actPdCause leavePowerDown beginWake
  repeat' split
  all_goals rfl

theorem pdCause_awake {s : State} (c : PdCause) (h : ∀ k, s.seq.dram ≠ .powerDown k) : pdCause s c = s := by
  unfold pdCause
  split
  · next k hdram => exact absurd hdram (h k)
  · rfl

theorem pdCause_highWater_wakes {s : State} {k : PdKind} (hdram : s.seq.dram = .powerDown k)
    (hres : s.seq.residency = none) : (pdCause s .highWater).seq.dram = .waking .ready (.powerDown k) := by
  simp only [pdCause, hdram, hres]
  rfl

theorem pdCause_kept {s : State} {k : PdKind} (c : PdCause) (hdram : s.seq.dram = .powerDown k)
    (hres : s.seq.residency ≠ none) : (pdCause s c).seq.dram = .powerDown k ∧ c ∈ (pdCause s c).seq.kept := by
  simp only [pdCause, hdram, Option.isSome_iff_ne_none.mpr hres, if_true]
  split
  · next h => exact ⟨hdram, by simpa using h⟩
  · exact ⟨rfl, by simp⟩

theorem storeEffect_none {s : State} {x : ParamId} (h : x ≠ .refreshHighWater ∨ s.seq.debt < s.params.refreshHighWater ∨
    ∀ k, s.seq.dram ≠ .powerDown k) : storeEffect s x = s := by
  unfold storeEffect
  split
  · next hcond =>
    obtain h | h | h := h
    · exact absurd hcond.1 h
    · omega
    · exact pdCause_awake _ h
  · rfl

theorem serveSetParam_refused {s : State} {q : Request} {f : SetParamFields}
    (h : paramOf f.id = none ∨ ∃ x, paramOf f.id = some x ∧ s.params.admits x f.value = false) :
    serveSetParam s q f = answer s q.replyTo .badParam := by
  unfold serveSetParam
  obtain h | ⟨x, hx, ha⟩ := h
  · rw [h]
  · rw [hx]
    simp [ha]

theorem serveSetParam_stored {s : State} {q : Request} {f : SetParamFields} {x : ParamId} (hx : paramOf f.id = some x)
    (ha : s.params.admits x f.value = true) :
    serveSetParam s q f
      = answer (storeEffect { s with params := s.params.store x f.value } x) q.replyTo .ok := by
  unfold serveSetParam
  rw [hx]
  simp [ha]

/-- Settles O27: the id and the range decide between BAD_PARAM and the store; the high water acts as in R141. -/
theorem setParamStoresValuesInRange : Obligations.SetParamStoresValuesInRange := by
  intro p tb id lo hi s h
  have hexec : exec (.setParam p tb [id, lo, hi]) s =
      .next (serveSetParam (afterTake s p tb) ⟨replyFor s p .setParam tb, tb, [id, lo, hi]⟩ ⟨id, u16 lo hi⟩) :=
    exec_reaches h rfl rfl
  refine ⟨fun hbad => ?_, fun x hx ha => ?_⟩
  · rw [serveSetParam_refused (by rw [afterTake_params]; exact hbad)] at hexec
    exact answersStatus_of_answer _ s p .setParam tb .badParam hexec
  · rw [serveSetParam_stored hx (by rw [afterTake_params]; exact ha), afterTake_params] at hexec
    refine ⟨fun hquiet => ?_, ?_⟩
    · rw [storeEffect_none] at hexec
      · exact answers_of_update _ s p .setParam tb [0x00] (fun u => { u with params := s.params.store x (u16 lo hi) })
          (fun _ => rfl) rfl hexec
      · by_cases hwater : x = .refreshHighWater
        · subst hwater
          simpa [Params.store] using hquiet
        · exact .inl hwater
    · rintro k rfl hwater hdram
      have hports : (pdCause { afterTake s p tb with params := s.params.store .refreshHighWater (u16 lo hi) }
          .highWater).ports = (afterTake s p tb).ports := pdCause_ports _ _
      have heffect : storeEffect { afterTake s p tb with params := s.params.store .refreshHighWater (u16 lo hi) }
          .refreshHighWater = pdCause
            { afterTake s p tb with params := s.params.store .refreshHighWater (u16 lo hi) } .highWater := by
        unfold storeEffect
        rw [if_pos ⟨rfl, by simpa [Params.store] using hwater⟩]
      have hdram' : ({ afterTake s p tb with params := s.params.store .refreshHighWater (u16 lo hi) } : State).seq.dram
          = .powerDown k := by simpa using hdram
      rw [heffect] at hexec
      have hreply := answered_handReply _ _ false false [0x00]
        ((acceptsReply_congr hports _).trans (accepts_taken s p .setParam tb))
      have hseq := hreply.rest.seq
      refine ⟨_, hexec, hreply.replied, hreply.rest.params.trans (pdCause_params _ _), fun hres => ?_, fun hres => ?_⟩
      · exact (congrArg Sequencer.dram hseq).trans (pdCause_highWater_wakes hdram' (by simpa using hres))
      · obtain ⟨hstays, hkept⟩ := pdCause_kept .highWater hdram' (by simpa using hres)
        exact ⟨(congrArg Sequencer.dram hseq).trans hstays, (congrArg Sequencer.kept hseq) ▸ hkept⟩

end Sys2Proof.Machine
end

section
/-! PROOFS. The region table's commands (chapter 3): DEFINE_REGION, ALTER_REGION, DELETE_REGION, QUERY_REGION. -/

namespace Sys2Proof.Machine

/-! ### Requests on a defined region -/

theorem withRegion_some {s : State} (q : Request) {b : Byte} {i : RegionId} {r : Region}
    (act : RegionId → Region → State) (h : lookup s b = some (i, r)) : withRegion s q b act = act i r := by
  simp only [withRegion, h]

/-- A request whose fields name a defined region is served on that region's record. -/
theorem exec_onRegion {α : Type} {s : State} {p : Port} {k : Kind} {tb : Byte} {pl : List Byte}
    {rd : List Byte → Option α} {idOf : α → Byte} {act : State → Request → α → RegionId → Region → State} {f : α}
    {i : RegionId} {r : Region}
    (howner : ownerOf k = fun t q => withFields t q rd fun f => withRegion t q (idOf f) (act t q f))
    (h : Reaches s p k tb pl) (hread : rd pl = some f) (hl : lookup s (idOf f) = some (i, r)) :
    exec (requestCommand k p tb pl) s = .next (act (afterTake s p tb) ⟨replyFor s p k tb, tb, pl⟩ f i r) := by
  rw [exec_reaches h howner hread, withRegion_some _ _ ((afterTake_lookup s p tb _).trans hl)]

/-- A command that stores a region record and then hands over its reply. -/
theorem answers_of_setRegion (c : Instr) (s : State) (p : Port) (k : Kind) (tb : Byte) (pl : List Byte) (i : RegionId)
    (x : Option Region)
    (h : exec c s = .next (reply ((afterTake s p tb).setRegion i x) (replyFor s p k tb) pl)) :
    Answers c s ((reportGood s p).setRegion i x) (replyFor s p k tb) pl :=
  answers_of_update c s p k tb pl (fun u => u.setRegion i x) (fun _ => rfl) rfl h

/-! ### DEFINE_REGION -/

/-- The slot that an id in range names decides (R40, checks 1 and 2). -/
theorem serveDefine_slot {s : State} {q : Request} {f : DefineFields} {i : RegionId} (hid : f.id.toNat = i.val) :
    serveDefine s q f = match s.region i with
      | some _ => answer s q.replyTo .regionExists
      | none =>
        match defineRecord s f with
        | .inl st => answer s q.replyTo st
        | .inr r => reply (s.setRegion i (some r)) q.replyTo [Status.ok.code, f.id] := by
  have hlt : f.id.toNat < 32 := hid ▸ i.isLt
  have hi : (⟨f.id.toNat, hlt⟩ : RegionId) = i := Fin.ext hid
  rw [serveDefine, dif_pos hlt]
  subst hi
  rfl

theorem serveDefine_outOfRange {s : State} {q : Request} {f : DefineFields} (hid : 32 ≤ f.id.toNat) :
    serveDefine s q f = answer s q.replyTo .badParam := dif_neg (Nat.not_lt.mpr hid)

theorem serveDefine_defined {s : State} {q : Request} {f : DefineFields} {i : RegionId} {r : Region}
    (hid : f.id.toNat = i.val) (hr : s.region i = some r) :
    serveDefine s q f = answer s q.replyTo .regionExists := by
  rw [serveDefine_slot hid, hr]

theorem serveDefine_refused {s : State} {q : Request} {f : DefineFields} {i : RegionId} {st : Status}
    (hid : f.id.toNat = i.val) (hr : s.region i = none) (h : defineRecord s f = .inl st) :
    serveDefine s q f = answer s q.replyTo st := by
  rw [serveDefine_slot hid, hr, h]

theorem serveDefine_stored {s : State} {q : Request} {f : DefineFields} {i : RegionId} {r : Region}
    (hid : f.id.toNat = i.val) (hr : s.region i = none) (h : defineRecord s f = .inr r) :
    serveDefine s q f = reply (s.setRegion i (some r)) q.replyTo [Status.ok.code, f.id] := by
  rw [serveDefine_slot hid, hr, h]

/-- A field out of its range or code is BAD_PARAM, before any overlap (R40, checks 3 and 4). -/
theorem defineRecord_badParam {s : State} {f : DefineFields}
    (h : f.pageCount = 0 ∨ 65536 < f.basePage + f.pageCount ∨ 60000 < f.recallMs ∨ boolOf f.shared = none ∨
      lossActionOf f.lossAction = none) : defineRecord s f = .inl .badParam := by
  unfold defineRecord
  by_cases hrange : f.pageCount = 0 ∨ 65536 < f.basePage + f.pageCount
  · exact if_pos hrange
  rw [if_neg hrange]
  by_cases hrecall : 60000 < f.recallMs
  · exact if_pos hrecall
  rw [if_neg hrecall]
  have hcodes : boolOf f.shared = none ∨ lossActionOf f.lossAction = none := by tauto
  split
  · next hs hloss => simp [hs, hloss] at hcodes
  · rfl

/-- With every field in range the overlap alone decides (R40, check 5). -/
theorem defineRecord_inRange {s : State} {f : DefineFields} {shared : Bool} {loss : LossAction} (hcount : 1 ≤ f.pageCount)
    (htop : f.basePage + f.pageCount ≤ 65536) (hrecall : f.recallMs ≤ 60000) (hs : boolOf f.shared = some shared)
    (hl : lossActionOf f.lossAction = some loss) :
    defineRecord s f =
      if overlapsAny s f.basePage f.pageCount then .inl .overlap else .inr (newRegion f shared loss) := by
  unfold defineRecord
  rw [if_neg (by omega), if_neg (by omega), hs, hl]

/-- Two page ranges that are not empty share a page (R42). -/
theorem sharesPage_of_page {b c b' c' page : Nat} (h : b ≤ page ∧ page < b + c) (h' : b' ≤ page ∧ page < b' + c') :
    sharesPage b c b' c' = true := sharesPage_iff.mpr (by omega)

theorem exists_page_of_sharesPage {b c b' c' : Nat} (hc : 1 ≤ c) (hc' : 1 ≤ c') (h : sharesPage b c b' c' = true) :
    ∃ page, (b ≤ page ∧ page < b + c) ∧ b' ≤ page ∧ page < b' + c' := by
  have := sharesPage_iff.mp h
  exact ⟨max b b', by omega, by omega⟩

/-- The overlap check looks at the region table alone. -/
theorem overlapsAny_afterTake (s : State) (p : Port) (tb : Byte) (b c : Nat) :
    overlapsAny (afterTake s p tb) b c = overlapsAny s b c := by
  simp only [overlapsAny, afterTake_region]

theorem overlapsAny_of_page {s : State} {b c page : Nat} {j : RegionId} {r : Region} (hr : s.region j = some r)
    (h : b ≤ page ∧ page < b + c) (h' : r.basePage ≤ page ∧ page < r.basePage + r.pageCount) :
    overlapsAny s b c = true := by
  by_contra hno
  have := overlapsAny_eq_false_iff.mp (Bool.not_eq_true _ ▸ hno) j r hr
  rw [sharesPage_of_page h h'] at this
  cases this

theorem overlapsAny_eq_false_of_pages {s : State} {b c : Nat} (hc : 1 ≤ c)
    (hpages : ∀ j r, s.region j = some r → 1 ≤ r.pageCount)
    (h : ∀ j r page, s.region j = some r → b ≤ page → page < b + c →
      ¬ (r.basePage ≤ page ∧ page < r.basePage + r.pageCount)) : overlapsAny s b c = false := by
  refine overlapsAny_eq_false_iff.mpr fun j r hr => Bool.eq_false_iff.mpr fun hshare => ?_
  obtain ⟨page, ⟨hlo, hhi⟩, hin⟩ := exists_page_of_sharesPage hc (hpages j r hr) hshare
  exact h j r page hr hlo hhi hin

/-- Settles O29: the id, the slot, the fields and the overlap decide in this order. -/
theorem defineRegionMakesAFreeRegion : Obligations.DefineRegionMakesAFreeRegion := by
  intro p tb pl f s h hread
  have hexec : exec (.defineRegion p tb pl) s =
      .next (serveDefine (afterTake s p tb) ⟨replyFor s p .defineRegion tb, tb, pl⟩ f) := exec_reaches h rfl hread
  have hstatus : ∀ {st}, serveDefine (afterTake s p tb) ⟨replyFor s p .defineRegion tb, tb, pl⟩ f
        = answer (afterTake s p tb) (replyFor s p .defineRegion tb) st →
      AnswersStatus (.defineRegion p tb pl) s (replyFor s p .defineRegion tb) st := fun {st} hserve =>
    answersStatus_of_answer _ s p .defineRegion tb st (by rw [hexec, hserve])
  refine ⟨fun hbig => hstatus (serveDefine_outOfRange hbig), fun i hid => ⟨fun r hr => ?_, fun hr => ⟨fun hbad => ?_, ?_⟩⟩⟩
  · exact hstatus (serveDefine_defined hid ((afterTake_region s p tb i).trans hr))
  · exact hstatus (serveDefine_refused hid ((afterTake_region s p tb i).trans hr) (defineRecord_badParam hbad))
  · intro shared loss hcount htop hrecall hshared hloss
    have hrecord := defineRecord_inRange (s := afterTake s p tb) hcount htop hrecall hshared hloss
    rw [overlapsAny_afterTake] at hrecord
    refine ⟨?_, fun hdisjoint hpages => ?_⟩
    · rintro ⟨j, r, page, hrj, hlo, hhi, hin⟩
      rw [overlapsAny_of_page hrj ⟨hlo, hhi⟩ hin] at hrecord
      exact hstatus (serveDefine_refused hid ((afterTake_region s p tb i).trans hr) hrecord)
    · rw [overlapsAny_eq_false_of_pages hcount hpages hdisjoint] at hrecord
      rw [serveDefine_stored hid ((afterTake_region s p tb i).trans hr) hrecord] at hexec
      exact answers_of_setRegion _ s p .defineRegion tb _ i _ hexec

/-! ### ALTER_REGION -/

theorem altered_eq_none {α : Type} {field : Option Byte} {named : Byte → Option α} {old : α} {b : Byte}
    (hb : field = some b) (hn : named b = none) : altered field named old = none := by
  subst hb
  exact hn

theorem altered_eq_some {α : Type} {field : Option Byte} {named : Byte → Option α} {old : α}
    (h : ∀ b, field = some b → named b ≠ none) : altered field named old = some ((field.bind named).getD old) := by
  cases field with
  | none => rfl
  | some b =>
    obtain ⟨x, hx⟩ := Option.ne_none_iff_exists'.mp (h b rfl)
    simp [altered, hx]

/-- A present field out of its range or code is BAD_PARAM (R43). -/
theorem alterRecord_badParam {r : Region} {f : AlterFields}
    (h : (∃ n, f.recallMs = some n ∧ 60000 < n) ∨ (∃ b, f.shared = some b ∧ boolOf b = none) ∨
      ∃ b, f.lossAction = some b ∧ lossActionOf b = none) : alterRecord r f = .inl .badParam := by
  unfold alterRecord
  obtain ⟨n, hn, hbig⟩ | ⟨b, hb, hcode⟩ | ⟨b, hb, hcode⟩ := h
  · dsimp only
    split
    · rw [if_pos (by simp [hn, hbig])]
    · rfl
  · rw [altered_eq_none hb hcode]
  · rw [altered_eq_none hb hcode]
    split
    · next heq => cases heq
    · rfl

/-- With every present field in range, only something SHARED in a region that is to be EXCLUSIVE stands against it. -/
theorem alterRecord_inRange {r : Region} {f : AlterFields} (hrecall : ∀ n, f.recallMs = some n → n ≤ 60000)
    (hshared : ∀ b, f.shared = some b → boolOf b ≠ none) (hloss : ∀ b, f.lossAction = some b → lossActionOf b ≠ none) :
    alterRecord r f =
      if f.shared = some 0 ∧ sharedPresent r = true then .inl .regionBusy
      else .inr { r with
        label := (f.label.map labelValue).getD r.label
        recallMs := f.recallMs.getD r.recallMs
        lossAction := (f.lossAction.bind lossActionOf).getD r.lossAction
        sharedAllowed := (f.shared.bind boolOf).getD r.sharedAllowed } := by
  have hin : ¬ (f.recallMs.isSome = true ∧ 60000 < f.recallMs.getD r.recallMs) := by
    rintro ⟨hsome, hbig⟩
    obtain ⟨n, hn⟩ := Option.isSome_iff_exists.mp hsome
    rw [hn, Option.getD_some] at hbig
    exact Nat.not_lt.mpr (hrecall n hn) hbig
  unfold alterRecord
  simp only [altered_eq_some hshared, altered_eq_some hloss, if_neg hin]
  cases f.label <;> rfl

/-- Settles O30: the present fields' ranges, then what is SHARED in the region, then the store. -/
theorem alterRegionStoresPresentFields : Obligations.AlterRegionStoresPresentFields := by
  intro p tb pl f i r s h hread hl
  have hexec : exec (.alterRegion p tb pl) s = .next
      (match alterRecord r f with
        | .inl st => answer (afterTake s p tb) (replyFor s p .alterRegion tb) st
        | .inr r' => answer ((afterTake s p tb).setRegion i (some r')) (replyFor s p .alterRegion tb) .ok) :=
    exec_onRegion (k := .alterRegion) rfl h hread hl
  refine ⟨fun hbad => ?_, fun hrecall hshared hloss => ?_⟩
  · rw [alterRecord_badParam hbad] at hexec
    exact answersStatus_of_answer _ s p .alterRegion tb _ hexec
  · rw [alterRecord_inRange hrecall hshared hloss] at hexec
    refine ⟨fun hexclusive hpresent => ?_, fun hfree => ?_⟩
    · rw [if_pos ⟨hexclusive, hpresent⟩] at hexec
      exact answersStatus_of_answer _ s p .alterRegion tb _ hexec
    · rw [if_neg (fun hc => Bool.eq_false_iff.mp (hfree hc.1) hc.2)] at hexec
      exact answers_of_setRegion _ s p .alterRegion tb _ i _ hexec

/-! ### DELETE_REGION and QUERY_REGION -/

theorem deletable_iff {r : Region} : deletable r = true ↔ r.state = .free ∨ (r.state = .fenced ∧ r.queue = []) := by
  simp [deletable]

/-- A holder is live to the query as it was before the request was taken (R48). -/
theorem holderField_eq (s : State) (p : Port) (tb : Byte) (h : Holder) :
    holderField (afterTake s p tb) h =
      [portCode h.port, h.session, h.mode.code,
        u8 ((if h.pendingRelease ≠ [] then 1 else 0) + (if h.revokePending then 2 else 0) +
          (if !h.lost && decide (s.presentSession h.port = some h.session) then 4 else 0))] := by
  simp [holderField, Holder.releasing, liveHolder]

theorem offerField_afterTake (s : State) (p : Port) (tb : Byte) (o : Option Offer) :
    offerField (afterTake s p tb) o = offerField s o := by
  cases o <;> simp [offerField]

/-- Settles O31: the state of the region decides on the deletion; the query's reply shows a record that the request has
not changed. -/
theorem regionsAreDeletedAndQueried : Obligations.RegionsAreDeletedAndQueried := by
  refine ⟨fun p tb b i r s h hl => ?_, fun p tb b i r s h hl => ?_⟩
  · have hexec : exec (.deleteRegion p tb [b]) s = .next
        (if deletable r then answer ((afterTake s p tb).setRegion i none) (replyFor s p .deleteRegion tb) .ok
          else answer (afterTake s p tb) (replyFor s p .deleteRegion tb) .regionBusy) :=
      exec_onRegion (k := .deleteRegion) rfl h rfl hl
    refine ⟨fun hfree => ?_, fun hbusy => ?_⟩
    · rw [if_pos (deletable_iff.mpr hfree)] at hexec
      exact answers_of_setRegion _ s p .deleteRegion tb _ i _ hexec
    · rw [if_neg (mt deletable_iff.mp hbusy)] at hexec
      exact answersStatus_of_answer _ s p .deleteRegion tb _ hexec
  · have hexec : exec (.queryRegion p tb [b]) s = .next
        (reply (afterTake s p tb) (replyFor s p .queryRegion tb) (queryPayload (afterTake s p tb) b r)) :=
      exec_onRegion (k := .queryRegion) rfl h rfl hl
    have hpayload := answers_of_reply _ s p .queryRegion tb _ hexec
    have hclaims : claimField = fun c : Claim => [portCode c.port, c.session, c.mode.code, u8 c.priority] := rfl
    rw [queryPayload, funext (holderField_eq s p tb), offerField_afterTake, afterTake_now, hclaims] at hpayload
    exact hpayload

end Sys2Proof.Machine
end

section
/-! PROOFS. What the Lease Directory's operations keep: a reply that has been handed over, and everything but one
region's record and the tables by port; and what the recall trigger does (R59 to R62). -/

namespace Sys2Proof.Machine

/-! ### A reply that has been handed over -/

/-- Every reply that stands in its cache slot with its tag free, and is on its way out, does so still. -/
def KeepsReplies (s t : State) : Prop := ∀ r pl, Replied s r pl → Replied t r pl

theorem KeepsReplies.refl (s : State) : KeepsReplies s s := fun _ _ h => h

theorem KeepsReplies.trans {s t u : State} (h : KeepsReplies s t) (g : KeepsReplies t u) : KeepsReplies s u :=
  fun r pl hr => g r pl (h r pl hr)

theorem KeepsReplies.of_link {s t : State} (h : ∀ q, t.link q = s.link q) : KeepsReplies s t := by
  rintro r pl ⟨hfree, hcached, hsent⟩
  refine ⟨?_, ?_, ?_⟩
  · rwa [h]
  · rwa [h]
  · rwa [outgoing, h]

/-- A port's tags and cache kept, and no frame on its way out lost. -/
theorem KeepsReplies.of_port {s t : State} {p : Port} (hne : ∀ q, q ≠ p → t.port q = s.port q)
    (hfree : ∀ u, (s.link p).entry u = .free → (t.link p).entry u = .free)
    (hcache : ∀ u, (s.link p).entry u = .free → (t.link p).cached u = (s.link p).cached u)
    (hsent : ∀ f ∈ outgoing s p, f ∈ outgoing t p) : KeepsReplies s t := by
  rintro r pl ⟨hf, hc, ho⟩
  by_cases hq : r.port = p
  · subst hq
    exact ⟨hfree _ hf, (hcache _ hf).trans hc, hsent _ ho⟩
  · have hlink : t.link r.port = s.link r.port := congrArg PortState.link (hne _ hq)
    refine ⟨?_, ?_, ?_⟩
    · rwa [hlink]
    · rwa [hlink]
    · rwa [outgoing, hlink]

/-- The arbiter moves the oldest response into transmission, or begins a notice while no response waits. -/
theorem arbitrate_keepsReplies (s : State) (p : Port) : KeepsReplies s (arbitrate s p) := by
  by_cases hw : (s.link p).responses = []
  · unfold arbitrate
    split
    · split
      · exact .refl s
      · next htx =>
        rw [hw]
        dsimp only
        split
        · split
          · refine .of_port (p := p) (fun q hq => (port_setPort_ne _ _ hq).trans (port_setPort_ne _ _ hq)) ?_ ?_ ?_
            · simp [sendNotice, Link.entry]
            · simp [sendNotice, Link.cached]
            · simp [outgoing, htx, hw]
          · exact .refl s
        · exact .refl s
    · exact .refl s
  · obtain ⟨hout, hlink, -⟩ := arbitrate_waiting s p hw
    refine KeepsReplies.of_port (p := p) (fun q hq => arbitrate_port_ne s hq) ?_ ?_ ?_
    · intro u hu
      rw [← hu, ← hlink]
      rfl
    · intro u _
      rw [← hlink]
      rfl
    · rw [hout]
      exact fun _ hf => hf

/-- A reply handed over goes to a tag in flight, so that it replaces none whose tag is free (R11). -/
theorem handReply_keepsReplies (s : State) (r : ReplyTo) (a b : Bool) (pl : List Byte) :
    KeepsReplies s (handReply s r a b pl) := by
  by_cases h : acceptsReply s r = true
  · have hans := answered_handReply s r a b pl h
    have htaken : (s.link r.port).entry r.tag = .taken r.session := by
      simp only [acceptsReply, Bool.and_eq_true, decide_eq_true_eq] at h
      exact h.1
    have hne : ∀ u, (s.link r.port).entry u = .free → u ≠ r.tag := by
      rintro u hu rfl
      rw [htaken] at hu
      cases hu
    refine KeepsReplies.of_port (p := r.port) hans.others (fun u hu => ?_) (fun u hu => hans.otherSlots u (hne u hu)) ?_
    · exact (hans.otherTags u (hne u hu)).trans hu
    · intro f hf
      rw [hans.sent]
      exact List.mem_append_left _ hf
  · rw [handReply, if_neg h]
    exact .refl s

theorem closed_keepsReplies : Closed KeepsReplies where
  refl := .refl
  trans := .trans
  handReply := handReply_keepsReplies
  post s p n := by
    unfold Machine.post
    split
    · exact .trans (.of_link fun q => link_setNotices s p _ q) (arbitrate_keepsReplies _ p)
    · exact .refl s
  fifo s p x := .of_link fun q => link_setFifo s p x q
  slot s p x := .of_link fun q => link_setSlot s p x q
  reports _ _ := .of_link fun _ => rfl
  region _ _ _ _ _ _ _ := .of_link fun _ => rfl
  quiet _ _ := .of_link fun _ => rfl

/-! ### Everything but one region's record and the tables by port -/

theorem OffRegions.trans {s t u : State} (h : OffRegions s t) (g : OffRegions t u) : OffRegions s u := by
  cases s; cases t; cases u
  simp only [OffRegions, State.mk.injEq] at h g ⊢
  simp_all

theorem OffPorts.offRegions {s t : State} (h : OffPorts s t) : OffRegions s t := by
  cases s; cases t
  simp only [OffPorts, OffRegions, State.mk.injEq] at h ⊢
  simp_all

section
variable {s t : State} (h : OffRegions s t)
include h
theorem OffRegions.now : t.now = s.now := (congrArg State.now h :)
theorem OffRegions.params : t.params = s.params := (congrArg State.params h :)
theorem OffRegions.restart : t.restart = s.restart := (congrArg State.restart h :)
theorem OffRegions.supervisor : t.supervisor = s.supervisor := (congrArg State.supervisor h :)
theorem OffRegions.seq : t.seq = s.seq := (congrArg State.seq h :)
theorem OffRegions.reports : t.reports = s.reports := (congrArg State.reports h :)
end

/-- Nothing but the tables by port and the record of one region differs; and of the ports neither a session nor a FIFO
nor an admission slot does. -/
structure OnRegion (i : RegionId) (s t : State) : Prop where
  off : OffRegions s t
  others : ∀ j, j ≠ i → t.region j = s.region j
  session : ∀ q, t.session q = s.session q
  fifo : ∀ q, t.fifo q = s.fifo q

namespace OnRegion

variable {i : RegionId}

theorem refl (s : State) : OnRegion i s s := ⟨rfl, fun _ _ => rfl, fun _ => rfl, fun _ => rfl⟩

theorem trans {s t u : State} (h : OnRegion i s t) (g : OnRegion i t u) : OnRegion i s u :=
  ⟨h.off.trans g.off, fun j hj => (g.others j hj).trans (h.others j hj), fun q => (g.session q).trans (h.session q),
    fun q => (g.fifo q).trans (h.fifo q)⟩

theorem setRegion (s : State) (x : Option Region) : OnRegion i s (s.setRegion i x) :=
  ⟨rfl, fun _ hj => region_setRegion_ne s x hj, fun _ => rfl, fun _ => rfl⟩

theorem editRegion (s : State) (f : Region → Region) : OnRegion i s (s.editRegion i f) := by
  unfold State.editRegion
  split
  · exact setRegion s _
  · exact refl s

theorem of_offPorts {s t : State} (h : OffPorts s t) (hs : ∀ q, t.session q = s.session q)
    (hf : ∀ q, t.fifo q = s.fifo q) : OnRegion i s t := ⟨h.offRegions, fun j _ => h.region j, hs, hf⟩

theorem handReply (s : State) (r : ReplyTo) (a b : Bool) (pl : List Byte) : OnRegion i s (Machine.handReply s r a b pl) :=
  of_offPorts (handReply_offPorts s r a b pl) (handReply_session s r a b pl) (handReply_fifo s r a b pl)

theorem post (s : State) (p : Port) (n : Notice) : OnRegion i s (Machine.post s p n) :=
  of_offPorts (post_offPorts s p n) (post_session s p n) (post_fifo s p n)

theorem postEntry (s : State) (p : Port) (m : SessNo) (lost : Bool) (n : Notice) :
    OnRegion i s (Machine.postEntry s p m lost n) := by
  unfold Machine.postEntry
  split
  · exact post _ _ _
  · exact refl s

theorem postYield (j : RegionId) (d : Option Nat) (s : State) (x : Holder) : OnRegion i s (Machine.postYield j d s x) := by
  unfold Machine.postYield
  split
  · exact refl s
  · exact postEntry _ _ _ _ _

theorem foldl {α : Type} (f : State → α → State) (hf : ∀ s a, OnRegion i s (f s a)) :
    ∀ (l : List α) (s : State), OnRegion i s (l.foldl f s)
  | [], s => refl s
  | a :: l, s => (hf s a).trans (foldl f hf l (f s a))

theorem answerReleases (s : State) (x : Holder) (st : Status) : OnRegion i s (Machine.answerReleases s x st) :=
  foldl _ (fun t q => handReply t q false false [st.code]) x.releases s

theorem enterRecalling (s : State) (r : Region) : OnRegion i s (Machine.enterRecalling s i r) :=
  (setRegion s _).trans (foldl _ (fun t x => postYield i _ t x) r.holders _)

theorem cancelRecall (s : State) (r : Region) : OnRegion i s (Machine.cancelRecall s i r) :=
  (setRegion s _).trans (foldl _ (fun t _ => postEntry t _ _ _ _) r.holders _)

theorem offerHead (s : State) (r : Region) : OnRegion i s (Machine.offerHead s i r) := by
  unfold Machine.offerHead
  split
  · exact refl s
  · exact (setRegion s _).trans (postEntry _ _ _ _ _)

theorem triggerPass : ∀ (fuel : Nat) (s : State), OnRegion i s (Machine.triggerPass fuel s i)
  | 0, s => refl s
  | fuel + 1, s => by
    have hagain : ∀ t, OnRegion i t (Machine.triggerPass fuel t i) := fun t => triggerPass fuel t
    unfold Machine.triggerPass
    split
    · exact refl s
    · next r _ =>
      repeat' split
      case isTrue => exact refl s
      case isFalse.isTrue => exact (cancelRecall s r).trans (hagain _)
      case isFalse.isFalse.isTrue => exact enterRecalling s r
      case isFalse.isFalse.isFalse.isTrue => exact (offerHead s r).trans (hagain _)
      case isFalse.isFalse.isFalse.isFalse.isTrue => exact (offerHead s r).trans (hagain _)
      case isFalse.isFalse.isFalse.isFalse.isFalse.isTrue => exact setRegion s _
      case isFalse.isFalse.isFalse.isFalse.isFalse.isFalse => exact refl s

theorem trigger (s : State) : OnRegion i s (Machine.trigger s i) := triggerPass 4 s

theorem settleRegion (s : State) : OnRegion i s (Machine.settleRegion s i) := (editRegion s resolve).trans (trigger _)

theorem present {s t : State} (h : OnRegion i s t) (q : Port) : t.presentSession q = s.presentSession q := by
  simp [State.presentSession, h.session]

theorem countOn {s t : State} (h : OnRegion i s t) (q : Port) (j : RegionId) :
    Machine.countOn t q j = Machine.countOn s q j := by
  simp [Machine.countOn, h.fifo]

end OnRegion

theorem setRegion_setRegion (s : State) (i : RegionId) (x y : Option Region) :
    (s.setRegion i x).setRegion i y = s.setRegion i y := by
  simp [State.setRegion]

theorem editRegion_some {s : State} {i : RegionId} {r : Region} (f : Region → Region) (h : s.region i = some r) :
    s.editRegion i f = s.setRegion i (some (f r)) := by
  simp only [State.editRegion, h]

/-- A change of a region's record after a reply, seen from before the reply. -/
theorem Answered.setRegion {s t : State} {q : ReplyTo} {b : Bool} {pl : List Byte} (h : Answered s t q b pl)
    (i : RegionId) (x : Option Region) : Answered (s.setRegion i x) (t.setRegion i x) q b pl where
  rest := by
    have := h.rest
    cases s; cases t
    simp only [OffPorts, State.setRegion, State.mk.injEq] at this ⊢
    simp_all
  others := h.others
  port := h.port
  rx := h.rx
  badFrames := h.badFrames
  credit := h.credit
  freed := h.freed
  otherTags := h.otherTags
  cached := h.cached
  otherSlots := h.otherSlots
  sent := h.sent

/-! ### The cases of the recall trigger -/

theorem headConflicts_of_empty {r : Region} (h : r.queue = []) : headConflicts r = false := by
  simp only [headConflicts, h]

theorem headConflicts_of_noHolder {r : Region} (h : r.holders = []) : headConflicts r = false := by
  unfold headConflicts
  split
  · rfl
  · rw [h]
    rfl

theorem headShared_of_empty {r : Region} (h : r.queue = []) : headShared r = false := by
  simp only [headShared, h]

/-- A region on which no case of R59 matches, or which is FENCED. -/
def Rests (r : Region) : Prop :=
  r.state = .fenced ∨
    (r.state ≠ .recalling ∧ headConflicts r = false ∧ (r.holders = [] → r.offer ≠ none) ∧
      (r.state = .shared → r.offer = none → headShared r = false))

theorem rests_held {r : Region} (hs : r.state ≠ .recalling) (hq : r.queue = []) (hh : r.holders ≠ []) : Rests r :=
  .inr ⟨hs, headConflicts_of_empty hq, fun h => absurd h hh, fun _ _ => headShared_of_empty hq⟩

theorem rests_offered {r : Region} (hs : r.state ≠ .recalling) (hh : r.holders = []) (ho : r.offer ≠ none) : Rests r :=
  .inr ⟨hs, headConflicts_of_noHolder hh, fun _ => ho, fun _ hn => absurd hn ho⟩

theorem triggerPass_rests {n : Nat} {s : State} {i : RegionId} {r : Region} (hr : s.region i = some r) (h : Rests r) :
    triggerPass n s i = s := by
  cases n with
  | zero => rfl
  | succ n =>
    simp only [triggerPass, hr]
    obtain hf | ⟨hs, hc, ho, hsh⟩ := h
    · rw [if_pos hf]
    · by_cases hf : r.state = .fenced
      · rw [if_pos hf]
      · rw [if_neg hf, if_neg (fun hrec => hs hrec.1), if_neg (by simp [hc]), if_neg (fun hno => ho hno.1 hno.2.1),
          if_neg (fun hshared => by simp [hsh hshared.1 hshared.2.1] at hshared), if_neg (fun hno => ho hno.1 hno.2.1)]

theorem trigger_rests {s : State} {i : RegionId} {r : Region} (hr : s.region i = some r) (h : Rests r) :
    trigger s i = s := triggerPass_rests hr h

/-- With nobody there and nobody waiting the region is FREE (R59, case 6). -/
theorem trigger_frees {s : State} {i : RegionId} {r : Region} (hr : s.region i = some r) (hf : r.state ≠ .fenced)
    (hs : r.state ≠ .recalling) (hh : r.holders = []) (ho : r.offer = none) (hq : r.queue = []) :
    trigger s i = s.setRegion i (some { r with state := .free }) := by
  simp only [trigger, triggerPass, hr]
  rw [if_neg hf, if_neg (fun hrec => hs hrec.1), if_neg (by simp [headConflicts_of_empty hq]),
    if_neg (fun hno => hno.2.2 hq), if_neg (by simp [headShared_of_empty hq]), if_pos ⟨hh, ho, hq⟩]

/-- The record once the head of the queue of a region with no holder is offered. -/
theorem offerHead_region {s : State} {i : RegionId} {r : Region} {c : Claim} {rest : List Claim} (hh : r.holders = [])
    (hq : r.queue = c :: rest) :
    (offerHead s i r).region i = some { r with
      queue := rest, state := .offered, recallDeadline := none
      offer := some ⟨c.port, c.session, c.mode, s.now + s.params.acceptWindowMs * 1000000⟩ } := by
  simp only [offerHead, hq, hh, if_true, ms]
  rw [(postEntry_offPorts _ _ _ _ _).region, region_setRegion_self]

/-- With nobody there the head of the queue is offered, and that is all (R59, case 4). -/
theorem trigger_offers {s : State} {i : RegionId} {r : Region} {c : Claim} {rest : List Claim} (hr : s.region i = some r)
    (hf : r.state ≠ .fenced) (hs : r.state ≠ .recalling) (hh : r.holders = []) (ho : r.offer = none)
    (hq : r.queue = c :: rest) : trigger s i = offerHead s i r := by
  have hpass : trigger s i = triggerPass 3 (offerHead s i r) i := by
    rw [trigger, triggerPass, hr]
    dsimp only
    rw [if_neg hf, if_neg (fun hrec => hs hrec.1), if_neg (by simp [headConflicts_of_noHolder hh]),
      if_pos ⟨hh, ho, by simp [hq]⟩]
  rw [hpass, triggerPass_rests (offerHead_region hh hq) (rests_offered (by simp) hh (by simp))]

/-- A head that conflicts with a holder begins the recall (R59, case 3). -/
theorem trigger_recalls {s : State} {i : RegionId} {r : Region} (hr : s.region i = some r) (hf : r.state ≠ .fenced)
    (hs : r.state ≠ .recalling) (hc : headConflicts r = true) : trigger s i = enterRecalling s i r := by
  rw [trigger, triggerPass, hr]
  dsimp only
  rw [if_neg hf, if_neg (fun hrec => hs hrec.1), if_pos ⟨hc, hs⟩]

theorem enterRecalling_region (s : State) (i : RegionId) (r : Region) :
    (enterRecalling s i r).region i = some { r with
      state := .recalling
      recallDeadline := if r.recallMs = 0 then none else some (s.now + r.recallMs * 1000000) } := by
  unfold enterRecalling
  dsimp only
  have hposts : ∀ (l : List Holder) (u : State) (d : Option Nat),
      OffPorts u (l.foldl (postYield i d) u) := fun l u d =>
    OffPorts.foldl _ (fun t x => by
      unfold postYield
      split
      · exact .refl t
      · exact postEntry_offPorts _ _ _ _ _) l u
  rw [(hposts _ _ _).region, region_setRegion_self]
  rfl

end Sys2Proof.Machine
end

section
/-! PROOFS. Claims and leases (R55 to R72, R94): CLAIM, ACCEPT, WITHDRAW, RELEASE and UNFENCE. -/

namespace Sys2Proof.Machine

/-! ### A region stored, a reply, and the recall trigger -/

/-- The arbiter reads no region. -/
theorem arbitrate_setRegion (s : State) (i : RegionId) (x : Option Region) (p : Port) :
    arbitrate (s.setRegion i x) p = (arbitrate s p).setRegion i x := by
  have hlink : (s.setRegion i x).link p = s.link p := rfl
  have hnotices : (s.setRegion i x).notices p = s.notices p := rfl
  have hrunning : (s.setRegion i x).isRunning = s.isRunning := rfl
  unfold arbitrate
  rw [hlink, hnotices, hrunning]
  repeat' split
  all_goals rfl

/-- A reply handed over, and a region stored, in either order. -/
theorem reply_setRegion (s : State) (i : RegionId) (x : Option Region) (q : ReplyTo) (pl : List Byte) :
    reply (s.setRegion i x) q pl = (reply s q pl).setRegion i x := by
  have haccepts : acceptsReply (s.setRegion i x) q = acceptsReply s q := rfl
  unfold reply handReply
  rw [haccepts]
  split
  · exact arbitrate_setRegion (s.setLink q.port _) i x q.port
  · rfl

/-- The record is as stored when the reply has been handed over. -/
theorem reply_setRegion_region (s : State) (q : ReplyTo) (pl : List Byte) (i : RegionId) (x : Option Region) :
    (reply (s.setRegion i x) q pl).region i = x := by
  rw [reply_setRegion, region_setRegion_self]

section
variable (c : Instr) (s : State) (p : Port) (k : Kind) (tb : Byte) (pl : List Byte) (i : RegionId)

/-- A command that stores a record, hands over its reply, and then stores another. -/
theorem answers_of_setRegion_twice (x y : Option Region)
    (h : exec c s = .next ((reply ((afterTake s p tb).setRegion i x) (replyFor s p k tb) pl).setRegion i y)) :
    Answers c s ((reportGood s p).setRegion i y) (replyFor s p k tb) pl := by
  refine answers_of_setRegion c s p k tb pl i y ?_
  rw [h, reply_setRegion, reply_setRegion, setRegion_setRegion]

/-- A command that stores a record on which the trigger finds nothing to do, and hands over its reply. -/
theorem answers_of_rests (r : Region) (hr : Rests r)
    (h : exec c s = .next (trigger (reply ((afterTake s p tb).setRegion i (some r)) (replyFor s p k tb) pl) i)) :
    Answers c s ((reportGood s p).setRegion i (some r)) (replyFor s p k tb) pl := by
  rw [trigger_rests (reply_setRegion_region _ _ _ i _) hr] at h
  exact answers_of_setRegion c s p k tb pl i _ h

/-- A command that stores a record with nobody there and nobody waiting, which the trigger makes FREE. -/
theorem answers_of_frees (r : Region) (hf : r.state ≠ .fenced) (hs : r.state ≠ .recalling) (hh : r.holders = [])
    (ho : r.offer = none) (hq : r.queue = [])
    (h : exec c s = .next (trigger (reply ((afterTake s p tb).setRegion i (some r)) (replyFor s p k tb) pl) i)) :
    Answers c s ((reportGood s p).setRegion i (some { r with state := .free })) (replyFor s p k tb) pl := by
  rw [trigger_frees (reply_setRegion_region _ _ _ i _) hf hs hh ho hq] at h
  exact answers_of_setRegion_twice c s p k tb pl i _ _ h

/-- A record stored, the reply, and the trigger: what they leave apart from the record itself. -/
theorem replied_trigger (x : Option Region) :
    OffRegions s (trigger (reply ((afterTake s p tb).setRegion i x) (replyFor s p k tb) pl) i) ∧
      Replied (trigger (reply ((afterTake s p tb).setRegion i x) (replyFor s p k tb) pl) i) (replyFor s p k tb) pl ∧
      ∀ j, j ≠ i → (trigger (reply ((afterTake s p tb).setRegion i x) (replyFor s p k tb) pl) i).region j = s.region j := by
  have hstored : OnRegion i (afterTake s p tb) ((afterTake s p tb).setRegion i x) := .setRegion _ x
  have htrigger : OnRegion i (afterTake s p tb)
      (trigger (reply ((afterTake s p tb).setRegion i x) (replyFor s p k tb) pl) i) :=
    hstored.trans ((OnRegion.handReply _ _ _ _ _).trans (.trigger _))
  have hreplied : Replied (reply ((afterTake s p tb).setRegion i x) (replyFor s p k tb) pl) (replyFor s p k tb) pl :=
    (answered_handReply ((afterTake s p tb).setRegion i x) _ false false pl (accepts_taken s p k tb)).replied
  refine ⟨(afterTake_offPorts s p tb).offRegions.trans htrigger.off, closed_keepsReplies.trigger _ i _ _ hreplied, ?_⟩
  intro j hj
  rw [htrigger.others j hj, afterTake_region]

end

/-! ### The wait queue (R57) -/

theorem insertClaim_split (c : Claim) (q : List Claim) : ∃ before after, q = before ++ after ∧
    insertClaim c q = before ++ c :: after ∧ claimPosition c q = before.length + 1 ∧
    (∀ x ∈ before, c.priority ≤ x.priority) ∧ ∀ x, after.head? = some x → x.priority < c.priority := by
  induction q with
  | nil => exact ⟨[], [], rfl, rfl, rfl, by simp, by simp⟩
  | cons y q ih =>
    by_cases hy : y.priority < c.priority
    · refine ⟨[], y :: q, rfl, if_pos hy, if_pos hy, by simp, fun x hx => ?_⟩
      cases hx
      exact hy
    · obtain ⟨before, after, rfl, hinsert, hposition, hbefore, hafter⟩ := ih
      refine ⟨y :: before, after, rfl, ?_, ?_, ?_, hafter⟩
      · exact (if_neg hy).trans (congrArg (y :: ·) hinsert)
      · exact (if_neg hy).trans (congrArg (· + 1) hposition)
      · exact List.forall_mem_cons.mpr ⟨Nat.not_lt.mp hy, hbefore⟩

/-! ### CLAIM -/

section
variable {s : State} {q : Request} {f : ClaimFields} {i : RegionId} {r : Region} {m : Mode} {n : SessNo}

theorem serveClaim_notShared (hl : lookup s f.id = some (i, r)) (hm : modeOf f.mode = some m)
    (hn : q.replyTo.session = some n) (hmode : m = .shared) (hno : r.sharedAllowed = false) :
    serveClaim s q f = answer s q.replyTo .badParam := by
  rw [serveClaim, withRegion_some _ _ hl, hm, hn]
  exact if_pos ⟨hmode, by simp [hno]⟩

theorem serveClaim_already (hl : lookup s f.id = some (i, r)) (hm : modeOf f.mode = some m)
    (hn : q.replyTo.session = some n) (hshared : m = .shared → r.sharedAllowed = true)
    (hthere : alreadyThere r q.replyTo.port (some n) = true) :
    serveClaim s q f = answer s q.replyTo .already := by
  rw [serveClaim, withRegion_some _ _ hl, hm, hn]
  dsimp only
  rw [if_neg (fun h => by simp [hshared h.1] at h), if_pos hthere]

theorem serveClaim_admissible (hl : lookup s f.id = some (i, r)) (hm : modeOf f.mode = some m)
    (hn : q.replyTo.session = some n) (hshared : m = .shared → r.sharedAllowed = true)
    (hthere : alreadyThere r q.replyTo.port (some n) = false) :
    serveClaim s q f = if grantsAtOnce r m then grantClaim s q i r n m else queueClaim s q i r n m := by
  rw [serveClaim, withRegion_some _ _ hl, hm, hn]
  dsimp only
  rw [if_neg (fun h => by simp [hshared h.1] at h), if_neg (by simp [hthere])]

end

theorem exec_claim {s : State} {p : Port} {tb b mc : Byte} (h : Reaches s p .claim tb [b, mc]) :
    exec (.claim p tb [b, mc]) s
      = .next (serveClaim (afterTake s p tb) ⟨replyFor s p .claim tb, tb, [b, mc]⟩ ⟨b, mc⟩) := exec_reaches h rfl rfl

/-- An admissible claim that is queued goes to its place by its port's priority (R57). -/
theorem exec_claim_queued {s : State} {p : Port} {tb b mc : Byte} {m : Mode} {i : RegionId} {r : Region}
    (h : Reaches s p .claim tb [b, mc]) (hl : lookup s b = some (i, r)) (hm : modeOf mc = some m)
    (hshared : m = .shared → r.sharedAllowed = true) (hthere : alreadyThere r p (some (s.session p).number) = false)
    (hgrant : grantsAtOnce r m = false) :
    exec (.claim p tb [b, mc]) s = .next (trigger (reply ((afterTake s p tb).setRegion i (some { r with
        queue := insertClaim ⟨p, (s.session p).number, m, s.params.priority.get p⟩ r.queue }))
        (replyFor s p .claim tb)
        [0x02, u8 (claimPosition ⟨p, (s.session p).number, m, s.params.priority.get p⟩ r.queue)]) i) := by
  rw [exec_claim h, serveClaim_admissible ((afterTake_lookup s p tb b).trans hl) hm
    (replyFor_session s p .claim tb h.2.1.1) hshared hthere, if_neg (by simp [hgrant])]
  rw [queueClaim, afterTake_params]
  rfl

/-- An admissible claim that is granted makes its port a holder (R56, R84). -/
theorem exec_claim_granted {s : State} {p : Port} {tb b mc : Byte} {m : Mode} {i : RegionId} {r : Region}
    (h : Reaches s p .claim tb [b, mc]) (hl : lookup s b = some (i, r)) (hm : modeOf mc = some m)
    (hshared : m = .shared → r.sharedAllowed = true) (hthere : alreadyThere r p (some (s.session p).number) = false)
    (hgrant : grantsAtOnce r m = true) (hunder : underRevocation r = false) :
    exec (.claim p tb [b, mc]) s = .next (trigger (reply ((afterTake s p tb).setRegion i
        (some (grantRecord r ⟨p, (s.session p).number, m, [], false, false⟩))) (replyFor s p .claim tb)
        (0x01 :: le16 (grantRecord r ⟨p, (s.session p).number, m, [], false, false⟩).epoch.toNat)) i) := by
  rw [exec_claim h, serveClaim_admissible ((afterTake_lookup s p tb b).trans hl) hm
    (replyFor_session s p .claim tb h.2.1.1) hshared hthere, if_pos hgrant]
  rw [grantClaim, revokeJoined, if_neg (by simp [hunder])]
  rfl

/-- A port that neither holds nor is offered nor claims a region with nobody there is not there already. -/
theorem alreadyThere_of_nobody {r : Region} (p : Port) (n : Option SessNo) (hh : r.holders = []) (ho : r.offer = none)
    (hq : r.queue = []) : alreadyThere r p n = false := by
  simp [alreadyThere, holderIn, offerIn, claimIn, hh, ho, hq]

theorem underRevocation_eq_false {r : Region} (h : ∀ x ∈ r.holders, x.revokePending = false) :
    underRevocation r = false := by
  rw [underRevocation, List.any_eq_false]
  exact fun x hx => by simp [h x hx]

theorem heldState_ne_recalling (m : Mode) : heldState m ≠ .recalling := by cases m <;> simp [heldState]

theorem insertHolder_ne_nil (h : Holder) (l : List Holder) : insertHolder h l ≠ [] := by
  cases l with
  | nil => simp [insertHolder]
  | cons x l =>
    rw [insertHolder]
    split <;> simp

/-- Settles O32: the place in the queue by induction on it; on a FENCED region the trigger does nothing, on an
EXCLUSIVE one the only claim conflicts with the holder. -/
theorem claimsThatConflictAreQueued : Obligations.ClaimsThatConflictAreQueued := by
  refine ⟨insertClaim_split, ?_⟩
  intro p tb b mc m i r s h hl hm hshared hthere
  refine ⟨fun hfenced => ?_, fun x hexclusive hholders hmode hoffer hqueue => ?_⟩
  · have hgrant : grantsAtOnce r m = false := by simp [grantsAtOnce, hfenced]
    exact answers_of_rests _ s p .claim tb _ i _ (.inl hfenced) (exec_claim_queued h hl hm hshared hthere hgrant)
  · have hgrant : grantsAtOnce r m = false := by simp [grantsAtOnce, hexclusive]
    have hexec := exec_claim_queued h hl hm hshared hthere hgrant
    rw [hqueue] at hexec
    obtain ⟨hoff, hreplied, hothers⟩ := replied_trigger s p .claim tb [0x02, 1] i (some { r with
      queue := [⟨p, (s.session p).number, m, s.params.priority.get p⟩] })
    refine ⟨_, hexec, hoff, hreplied, hothers, ?_⟩
    have hrecalls := trigger_recalls (reply_setRegion_region (afterTake s p tb) (replyFor s p .claim tb) [0x02, 1] i
      (some { r with queue := [⟨p, (s.session p).number, m, s.params.priority.get p⟩] }))
      (by simp [hexclusive]) (by simp [hexclusive]) (by simp [headConflicts, hholders, conflicts, hmode])
    refine (congrArg (State.region · i) hrecalls).trans ((enterRecalling_region _ _ _).trans ?_)
    rw [(reply_offPorts _ _ _).now, setRegion_now, afterTake_now]

/-- Settles O33: the checks; and on a FREE or a SHARED region with nobody waiting the new holder, with which the trigger
finds nothing to do. -/
theorem claimsAreCheckedAndGrantedAtOnce : Obligations.ClaimsAreCheckedAndGrantedAtOnce := by
  constructor
  · intro p tb b mc m i r s h hl hm
    have hl' := (afterTake_lookup s p tb b).trans hl
    have hn := replyFor_session s p .claim tb h.2.1.1
    refine ⟨fun hmode hno => ?_, fun hshared hthere => ?_⟩
    · exact answersStatus_of_answer _ s p .claim tb _ ((exec_claim h).trans
        (congrArg _ (serveClaim_notShared hl' hm hn hmode hno)))
    · exact answersStatus_of_answer _ s p .claim tb _ ((exec_claim h).trans
        (congrArg _ (serveClaim_already hl' hm hn hshared hthere)))
  · intro p tb b mc m i r s h hl hm hshared hqueue
    refine ⟨fun hfree hholders hoffer => ?_, fun hstate hmode hthere hpending => ?_⟩
    · have hexec := exec_claim_granted h hl hm hshared (alreadyThere_of_nobody p _ hholders hoffer hqueue)
        (by simp [grantsAtOnce, hfree]) (underRevocation_eq_false (by simp [hholders]))
      rw [grantRecord, if_pos hfree, hholders] at hexec
      exact answers_of_rests _ s p .claim tb _ i _ (rests_held (heldState_ne_recalling m) hqueue (by simp)) hexec
    · subst hmode
      have hexec := exec_claim_granted h hl hm hshared hthere (by simp [grantsAtOnce, hstate, hqueue])
        (underRevocation_eq_false hpending)
      rw [grantRecord, if_neg (by simp [hstate])] at hexec
      exact answers_of_rests _ s p .claim tb _ i _ (rests_held (by simp [hstate]) hqueue (insertHolder_ne_nil _ _))
        hexec

/-! ### ACCEPT -/

/-- The offer that is out to a port names that port and session. -/
theorem offerIn_eq_some {r : Region} {p : Port} {n : SessNo} {o : Offer} (h : offerIn r p (some n) = some o) :
    r.offer = some o ∧ o.port = p ∧ o.session = n := by
  unfold offerIn at h
  split at h
  · next o' ho =>
    split at h
    · next hport =>
      cases h
      exact ⟨ho, hport.1, Option.some.inj hport.2⟩
    · cases h
  · cases h

/-- Settles O34: without holders the target begins a new tenure, else it joins the SHARED holders. -/
theorem acceptTurnsTheOfferIntoALease : Obligations.AcceptTurnsTheOfferIntoALease := by
  intro p tb b i r s h hl
  have hn := replyFor_session s p .accept tb h.2.1.1
  have hexec : exec (.accept p tb [b]) s = .next
      (match offerIn r p (replyFor s p .accept tb).session with
        | some o => acceptOffer (afterTake s p tb) ⟨replyFor s p .accept tb, tb, [b]⟩ i r o
        | none => answer (afterTake s p tb) (replyFor s p .accept tb) .noOffer) :=
    exec_onRegion (k := .accept) rfl h rfl hl
  rw [hn] at hexec
  refine ⟨fun hno => ?_, fun o ho hqueue => ?_⟩
  · rw [hno] at hexec
    exact answersStatus_of_answer _ s p .accept tb _ hexec
  · rw [ho] at hexec
    dsimp only at hexec
    obtain ⟨-, hport, hsession⟩ := offerIn_eq_some ho
    refine ⟨fun hstate hholders => ?_, fun hstate hmode hholders hpending => ?_⟩
    · refine answers_of_rests _ s p .accept tb _ i _ (rests_held (heldState_ne_recalling o.mode) hqueue (by simp)) ?_
      rw [hexec, acceptOffer, acceptRecord, if_pos hholders, yieldToJoined, if_neg (fun hc => hc.1 hholders), revokeJoined,
        underRevocation_eq_false (by simp [hholders]), hport, hsession]
      rfl
    · refine answers_of_rests _ s p .accept tb _ i _ (rests_held (by simp [hstate]) hqueue (insertHolder_ne_nil _ _)) ?_
      rw [hexec, acceptOffer, acceptRecord, if_neg hholders, yieldToJoined, if_neg (fun hc => by simp [hstate] at hc),
        revokeJoined, underRevocation_eq_false hpending, hport, hsession, hmode]
      rfl

/-! ### WITHDRAW -/

/-- Settles O35: what the port has of the region decides on the record that is stored, and the trigger finds it at rest
or with nobody left. -/
theorem withdrawRemovesClaimOrOffer : Obligations.WithdrawRemovesClaimOrOffer := by
  intro p tb b i r s h hl
  have hn := replyFor_session s p .withdraw tb h.2.1.1
  have hexec : exec (.withdraw p tb [b]) s = .next
      (match (replyFor s p .withdraw tb).session.bind (withdrawRecord r p) with
        | some r' => trigger (answer ((afterTake s p tb).setRegion i (some r')) (replyFor s p .withdraw tb) .ok) i
        | none => answer (afterTake s p tb) (replyFor s p .withdraw tb) .notClaimed) :=
    exec_onRegion (k := .withdraw) rfl h rfl hl
  rw [hn, Option.bind_some] at hexec
  refine ⟨fun hclaim hoffer => ?_, fun hclaim hstate => ?_, fun hoffer hstate hholders hqueue => ?_⟩
  · rw [withdrawRecord, if_neg (by simp [hclaim]), hoffer] at hexec
    exact answersStatus_of_answer _ s p .withdraw tb _ hexec
  · rw [withdrawRecord, if_pos hclaim] at hexec
    refine answers_of_rests _ s p .withdraw tb _ i _ ?_ hexec
    obtain hfenced | ⟨hoffered, hholders, ho⟩ := hstate
    · exact .inl hfenced
    · exact rests_offered (by simp [hoffered]) hholders ho
  · have hclaim : claimIn r p (some (s.session p).number) = false := by simp [claimIn, hqueue]
    rw [withdrawRecord, if_neg (by simp [hclaim]), if_pos (Option.isSome_iff_ne_none.mpr hoffer)] at hexec
    exact answers_of_frees _ s p .withdraw tb _ i { r with offer := none } (by simp [hstate]) (by simp [hstate]) hholders
      rfl hqueue hexec

/-! ### RELEASE -/

theorem same_self (h : Holder) : h.same h = true := by simp [Holder.same]

theorem eraseHolder_singleton (h : Holder) : eraseHolder h [h] = [] := by simp [eraseHolder, same_self]

theorem holderIn_port {r : Region} {p : Port} {n : Option SessNo} {h : Holder} (hh : holderIn r p n = some h) :
    h.port = p := by
  have := List.find?_some hh
  simp only [Bool.and_eq_true, decide_eq_true_eq] at this
  exact this.1.1

theorem countOn_afterTake (s : State) (p : Port) (tb : Byte) (q : Port) (i : RegionId) :
    countOn (afterTake s p tb) q i = countOn s q i := by
  simp only [countOn, afterTake_fifo]

/-- A region whose last holder has gone, with no offer out and nobody waiting, is FREE (R72). -/
theorem settleRegion_frees {s : State} {i : RegionId} {r : Region} (hr : s.region i = some r) (hh : r.holders = [])
    (ho : r.offer = none) (hq : r.queue = []) :
    settleRegion s i = s.setRegion i (some { r with recallDeadline := none, state := .free }) := by
  have hresolve : resolve r = { r with recallDeadline := none, state := .free } := by
    rw [resolve, if_pos hh, ho]
    rfl
  rw [settleRegion, editRegion_some _ hr, hresolve,
    trigger_frees (region_setRegion_self s i (some { r with recallDeadline := none, state := .free })) (by simp) (by simp)
      hh ho hq, setRegion_setRegion]

/-- Settles O36: the holder entry's marks and the port's transactions decide; the last lease's end frees the region. -/
theorem releaseGivesTheLeaseBack : Obligations.ReleaseGivesTheLeaseBack := by
  intro p tb b i r s h hl
  have hn := replyFor_session s p .release tb h.2.1.1
  have hr : (afterTake s p tb).region i = some r := (afterTake_region s p tb i).trans (lookup_eq_some_iff.mp hl).2
  have hexec : exec (.release p tb [b]) s = .next
      (match holderIn r p (replyFor s p .release tb).session with
        | some x => releaseHolder (afterTake s p tb) ⟨replyFor s p .release tb, tb, [b]⟩ i x
        | none => answer (afterTake s p tb) (replyFor s p .release tb) .notHeld) :=
    exec_onRegion (k := .release) rfl h rfl hl
  rw [hn] at hexec
  refine ⟨fun hno => ?_, fun x hx => ?_⟩
  · rw [hno] at hexec
    exact answersStatus_of_answer _ s p .release tb _ hexec
  · rw [hx] at hexec
    dsimp only at hexec
    have hreleasing : x.releasing = true ↔ x.pendingRelease ≠ [] := by simp [Holder.releasing]
    have hcount : countOn (afterTake s p tb) x.port i = countOn s p i := by
      rw [countOn_afterTake, holderIn_port hx]
    refine ⟨fun hwaits hrevoke => ?_, fun hwait => ?_, fun hnone hrevoke hdrained hholders hoffer hqueue _ => ?_⟩
    · rw [releaseHolder, if_neg (by simp [hrevoke]), if_pos (hreleasing.mpr hwaits)] at hexec
      exact answersStatus_of_answer _ s p .release tb _ hexec
    · have hmark : releaseHolder (afterTake s p tb) ⟨replyFor s p .release tb, tb, [b]⟩ i x
          = markRelease (afterTake s p tb) i x (tagOf tb) := by
        unfold releaseHolder
        by_cases hrevoke : x.revokePending = true
        · exact if_pos hrevoke
        · obtain hr' | ⟨hnone, hbusy⟩ := hwait
          · exact absurd hr' hrevoke
          · rw [if_neg hrevoke, if_neg (fun hc => hreleasing.mp hc hnone), hcount, if_pos hbusy]
            rfl
      rw [hexec, hmark, markRelease, editRegion_some _ hr]
      rfl
    · rw [releaseHolder, if_neg (by simp [hrevoke]), if_neg (fun hc => hreleasing.mp hc hnone), hcount,
        if_neg (by simp [hdrained]), removeHolder, editRegion_some _ hr, hholders, eraseHolder_singleton] at hexec
      have hfrees := settleRegion_frees (reply_setRegion_region (afterTake s p tb) (replyFor s p .release tb) [0x00] i
        (some { r with holders := [] })) rfl hoffer hqueue
      exact answers_of_setRegion_twice _ s p .release tb _ i _ _ (hexec.trans (congrArg _ hfrees))

/-! ### UNFENCE -/

/-- Settles O38: the epoch rises and the region is FREE, and then the trigger offers it to the head, if there is one. -/
theorem unfenceRaisesTheEpoch : Obligations.UnfenceRaisesTheEpoch := by
  intro p tb b i r s h hl
  have hexec : exec (.unfence p tb [b]) s = .next
      (if r.state = .fenced then unfenceRegion (afterTake s p tb) ⟨replyFor s p .unfence tb, tb, [b]⟩ i r
        else answer (afterTake s p tb) (replyFor s p .unfence tb) .regionBusy) :=
    exec_onRegion (k := .unfence) rfl h rfl hl
  refine ⟨fun hno => ?_, fun hfenced hholders hoffer => ⟨fun hqueue => ?_, fun c rest hqueue => ?_⟩⟩
  · rw [if_neg hno] at hexec
    exact answersStatus_of_answer _ s p .unfence tb _ hexec
  · rw [if_pos hfenced] at hexec
    exact answers_of_frees _ s p .unfence tb _ i { r with epoch := r.epoch + 1, state := .free } (by simp) (by simp)
      hholders hoffer hqueue hexec
  · rw [if_pos hfenced] at hexec
    obtain ⟨hoff, hreplied, hothers⟩ := replied_trigger s p .unfence tb (0x00 :: le16 (r.epoch + 1).toNat) i
      (some { r with epoch := r.epoch + 1, state := .free })
    refine ⟨_, hexec, hoff, hreplied, hothers, ?_⟩
    have hoffers := trigger_offers (reply_setRegion_region (afterTake s p tb) (replyFor s p .unfence tb)
      (0x00 :: le16 (r.epoch + 1).toNat) i (some { r with epoch := r.epoch + 1, state := .free })) (by simp) (by simp)
      hholders hoffer hqueue
    refine (congrArg (State.region · i) hoffers).trans ((offerHead_region
      (r := { r with epoch := r.epoch + 1, state := .free }) hholders hqueue).trans ?_)
    rw [(reply_offPorts _ _ _).now, (reply_offPorts _ _ _).params, setRegion_now, setRegion_params, afterTake_now,
      afterTake_params]

end Sys2Proof.Machine
end

section
/-! PROOFS. The ends of leases (R66, R74, R79 to R83): REVOKE, the two deadlines, and the end reports. -/

namespace Sys2Proof.Machine

/-! ### What settling the Sequencer leaves -/

/-- What no work of the Sequencer changes in its record: the condition, the overrun count, a REINIT not yet answered, a
retention entry, and the tick. -/
def Sequencer.standing (q : Sequencer) : MemCondition × Nat × Option ReplyTo × Option RetReason × Timer :=
  (q.condition, q.overruns, q.reinit, q.retEntry, q.tick)

/-- A relation between states that holds across every change of the Sequencer's work. -/
structure IdleClosed (R : State → State → Prop) : Prop where
  refl : ∀ s, R s s
  trans : ∀ {s t u}, R s t → R t u → R s u
  seq : ∀ s q, q.standing = s.seq.standing → R s (s.setSeq q)

namespace IdleClosed

variable {R : State → State → Prop} (h : IdleClosed R)
include h

theorem issueRefresh (s : State) : R s (Machine.issueRefresh s) := h.seq s _ rfl

/-- An entry into self refresh, with no retention entry running, ends in the Sequencer's record (R144). -/
theorem finalStep {s : State} (hret : s.seq.retEntry = none) : R s (Machine.finalStep s .selfRefresh) := by
  unfold Machine.finalStep
  rw [hret]
  dsimp only
  split
  all_goals exact h.seq s _ rfl

theorem payDebt {s : State} (hret : s.seq.retEntry = none) : R s (Machine.payDebt s .selfRefresh) := by
  unfold Machine.payDebt
  split
  · exact h.trans (h.seq s { s.seq with dram := .enteringSr .selfRefresh .payDebt } rfl) (h.issueRefresh _)
  · exact h.finalStep hret

theorem closeBanks {s : State} (hret : s.seq.retEntry = none) : R s (Machine.closeBanks s .selfRefresh) := by
  unfold Machine.closeBanks
  split
  · exact h.seq s _ rfl
  · exact h.payDebt hret

theorem srExpiryIdle {s : State} (hret : s.seq.retEntry = none) : R s (Machine.srExpiryIdle s) := by
  unfold Machine.srExpiryIdle
  split
  · exact h.trans (h.seq s { s.seq with idle := false, pdTimer := none, srTimer := none } rfl) (h.closeBanks hret)
  · exact h.seq s _ rfl

theorem startIdle {s : State} (hret : s.seq.retEntry = none) : R s (Machine.startIdle s) := by
  have hidle := h.seq s { s.seq with
    idle := true
    pdTimer := if s.params.pdIdle100ns = 0 then none else some (s.timer (s.params.pdIdle100ns * 100)) } rfl
  unfold Machine.startIdle
  dsimp only
  split
  · exact hidle
  · split
    · exact hidle
    · split
      · exact h.trans hidle (h.srExpiryIdle hret)
      · exact h.trans hidle (h.seq _ _ rfl)

omit h in
theorem retEntry_of_idleNow {s : State} (hidle : idleNow s = true) : s.seq.retEntry = none := by
  simp only [idleNow, Bool.and_eq_true, Option.isNone_iff_eq_none] at hidle
  exact hidle.1.2

theorem updateIdle (s : State) : R s (Machine.updateIdle s) := by
  unfold Machine.updateIdle
  split
  · next hidle =>
    split
    · exact h.refl s
    · exact h.startIdle (retEntry_of_idleNow hidle)
  · split
    · exact h.seq s _ rfl
    · exact h.refl s

theorem headsInPowerDown (s : State) (k : PdKind) : R s (Machine.headsInPowerDown s k) := by
  unfold Machine.headsInPowerDown
  split
  · exact h.seq s _ rfl
  · split
    · exact h.seq s _ rfl
    · exact h.refl s

theorem wakeForHeads (s : State) : R s (Machine.wakeForHeads s) := by
  unfold Machine.wakeForHeads
  split
  · exact h.headsInPowerDown s _
  · split
    · exact h.seq s _ rfl
    · exact h.refl s
  · split
    · exact h.seq s _ rfl
    · exact h.refl s
  · exact h.refl s

end IdleClosed

/-- A relation between states that also holds across the ends of transactions that leave their FIFO in silence. -/
structure SettleClosed (R : State → State → Prop) : Prop extends IdleClosed R where
  fifo : ∀ s p x, R s (s.setFifo p x)
  report : ∀ s p e, R s (report s p e)

namespace SettleClosed

variable {R : State → State → Prop} (h : SettleClosed R)
include h

/-- The end of an entry without a reply (R108). -/
theorem endEntry (s : State) (p : Port) (e : Entry) (x : Bool) : R s (Machine.endEntry s p e none x) := by
  have hquiet : R s (markQuiet s e) := by
    unfold markQuiet
    split
    · exact h.seq s _ rfl
    · exact h.refl s
  exact h.trans hquiet (h.report _ p e)

theorem dropFrom (p : Port) : ∀ (l : List Entry) (s : State), R s (Machine.dropFrom p l s)
  | [], s => h.refl s
  | e :: l, s => by
    rw [Machine.dropFrom]
    split
    · exact h.trans (h.fifo s p l) (h.trans (h.endEntry _ p e false) (dropFrom p l _))
    · exact h.refl s

theorem dropBreaches (s : State) : R s (Machine.dropBreaches s) := by
  have hfold : ∀ (ps : List Port) (t : State), R t (ps.foldl (fun t p => Machine.dropFrom p (t.fifo p) t) t) := by
    intro ps
    induction ps with
    | nil => exact h.refl
    | cons p ps ih => exact fun t => h.trans (h.dropFrom p _ t) (ih _)
  exact hfold allPorts s

theorem grant (s : State) (p : Port) : R s (Machine.grant s p) := by
  unfold Machine.grant
  split
  · exact h.refl s
  · exact h.trans (h.fifo s p _) (h.seq _ _ rfl)

theorem chooseAmong (s : State) : R s (Machine.chooseAmong s) := by
  unfold Machine.chooseAmong
  split
  · exact h.refl s
  · split
    · exact h.trans (h.seq s { s.seq with urgent := true } rfl) (h.issueRefresh _)
    · split
      · exact h.grant s _
      · split
        · exact h.issueRefresh s
        · exact h.refl s

theorem arbiter (s : State) : R s (Machine.arbiter s) := by
  unfold Machine.arbiter
  split
  · exact h.trans (h.dropBreaches s) (h.chooseAmong _)
  · exact h.refl s

theorem startDue (s : State) : R s (Machine.startDue s) := by
  unfold Machine.startDue
  split
  · exact h.arbiter s
  · exact h.refl s

theorem settle (s : State) : R s (Machine.settle s) :=
  h.trans (h.arbiter s) (h.trans (h.updateIdle _) (h.wakeForHeads _))

end SettleClosed

/-- Nothing but the FIFOs, the end reports and the Sequencer's work differs. -/
structure OnlyWork (s t : State) : Prop where
  rest : { t with ports := s.ports, reports := s.reports, seq := s.seq } = s
  link : ∀ q, t.link q = s.link q
  session : ∀ q, t.session q = s.session q
  notices : ∀ q, t.notices q = s.notices q
  slot : ∀ q, t.slot q = s.slot q
  standing : t.seq.standing = s.seq.standing

namespace OnlyWork

theorem refl (s : State) : OnlyWork s s := ⟨rfl, fun _ => rfl, fun _ => rfl, fun _ => rfl, fun _ => rfl, rfl⟩

theorem trans {s t u : State} (h : OnlyWork s t) (g : OnlyWork t u) : OnlyWork s u where
  rest := by
    have h1 := h.rest; have g1 := g.rest
    cases s; cases t; cases u
    simp only [State.mk.injEq] at h1 g1 ⊢
    simp_all
  link q := (g.link q).trans (h.link q)
  session q := (g.session q).trans (h.session q)
  notices q := (g.notices q).trans (h.notices q)
  slot q := (g.slot q).trans (h.slot q)
  standing := g.standing.trans h.standing

theorem regions {s t : State} (h : OnlyWork s t) : t.regions = s.regions := (congrArg State.regions h.rest :)

theorem closed : SettleClosed OnlyWork where
  refl := refl
  trans := trans
  fifo s p x := ⟨rfl, link_setFifo s p x, session_setFifo s p x, notices_setFifo s p x, slot_setFifo s p x, rfl⟩
  report s p e := by
    unfold Machine.report
    split
    · exact ⟨rfl, fun _ => rfl, fun _ => rfl, fun _ => rfl, fun _ => rfl, rfl⟩
    · exact refl s
  seq _ _ hq := ⟨rfl, fun _ => rfl, fun _ => rfl, fun _ => rfl, fun _ => rfl, hq⟩

end OnlyWork

/-- What the Sequencer does at the end of an event: it starts transactions, drops breaches, and changes its own
record. -/
theorem settle_onlyWork (s : State) : OnlyWork s (settle s) := OnlyWork.closed.settle s

theorem settle_keepsReplies (s : State) : KeepsReplies s (settle s) := .of_link (settle_onlyWork s).link

theorem settle_region (s : State) (i : RegionId) : (settle s).region i = s.region i :=
  region_congr (settle_onlyWork s).regions i

theorem OffWork.trans {s t u : State} (h : OffWork s t) (g : OffWork t u) : OffWork s u := by
  cases s; cases t; cases u
  simp only [OffWork, State.mk.injEq] at h g ⊢
  simp_all

theorem OffRegions.offWork {s t : State} (h : OffRegions s t) : OffWork s t := by
  cases s; cases t
  simp only [OffRegions, OffWork, State.mk.injEq] at h ⊢
  simp_all

theorem OnlyWork.offWork {s t : State} (h : OnlyWork s t) : OffWork s t := by
  have hrest := h.rest
  cases s; cases t
  simp only [OffWork, State.mk.injEq] at hrest ⊢
  simp_all

/-- Time that passes changes the moment, and what a start changes. -/
theorem reach_offWork (s : State) (d : Nat) : OffWork { s with now := max s.now d } (s.reach d) := by
  obtain ⟨t, h, e⟩ := reach_onlyStarts s d
  have hrest := h.rest
  rw [e]
  cases s; cases t
  simp only [OffWork, State.mk.injEq] at hrest ⊢
  simp_all

/-! ### FIFOs with nothing on a region -/

theorem countOn_eq_zero_iff {s : State} {p : Port} {i : RegionId} :
    countOn s p i = 0 ↔ ∀ e ∈ s.fifo p, e.region ≠ i := by
  simp [countOn, List.countP_eq_zero]

/-- An entry as it stood or a burst further: the same transaction, and started if it was. -/
structure Continues (e x : Entry) : Prop where
  session : x.session = e.session
  region : x.region = e.region
  started : e.started = true → x.started = true

theorem Continues.refl (e : Entry) : Continues e e := ⟨rfl, rfl, id⟩

theorem Continues.trans {e x y : Entry} (h : Continues e x) (g : Continues x y) : Continues e y :=
  ⟨g.session.trans h.session, g.region.trans h.region, g.started ∘ h.started⟩

/-- Every entry of a FIFO continues one that it had. -/
def Descends (s t : State) : Prop := ∀ p, ∀ x ∈ t.fifo p, ∃ e ∈ s.fifo p, Continues e x

theorem Descends.of_fifo {s t : State} (h : ∀ p, t.fifo p = s.fifo p) : Descends s t :=
  fun p x hx => ⟨x, h p ▸ hx, .refl x⟩

theorem Descends.trans {s t u : State} (h : Descends s t) (g : Descends t u) : Descends s u := fun p x hx => by
  obtain ⟨y, hy, hyx⟩ := g p x hx
  obtain ⟨e, he, hey⟩ := h p y hy
  exact ⟨e, he, hey.trans hyx⟩

theorem Descends.setFifo {s : State} {p : Port} {l : List Entry} (h : ∀ x ∈ l, ∃ e ∈ s.fifo p, Continues e x) :
    Descends s (s.setFifo p l) := by
  intro q x hx
  by_cases hq : q = p
  · subst hq
    rw [fifo_setFifo_self] at hx
    exact h x hx
  · rw [fifo_setFifo_ne s p l hq] at hx
    exact ⟨x, hx, .refl x⟩

theorem Descends.countOn {s t : State} (h : Descends s t) {p : Port} {i : RegionId} (hc : countOn s p i = 0) :
    Machine.countOn t p i = 0 := by
  rw [countOn_eq_zero_iff] at hc ⊢
  intro x hx hregion
  obtain ⟨e, he, hex⟩ := h p x hx
  exact hc e he (hex.region.symm.trans hregion)

@[simp] theorem endEntry_fifo (s : State) (p : Port) (e : Entry) (pl : Option (List Byte)) (x : Bool) (q : Port) :
    (endEntry s p e pl x).fifo q = s.fifo q := by
  have hreport : ∀ t : State, (report (markQuiet t e) p e).fifo q = t.fifo q := fun t => by
    unfold report markQuiet
    split <;> split <;> rfl
  unfold endEntry
  rw [hreport]
  split
  · exact handReply_fifo _ _ _ _ _ q
  · rfl

theorem dropFrom_descends (p : Port) : ∀ (l : List Entry) (s : State), s.fifo p = l → Descends s (dropFrom p l s)
  | [], s, _ => .of_fifo fun _ => rfl
  | e :: l, s, hl => by
    simp only [dropFrom]
    split
    · have hdrop : Descends s (s.setFifo p l) := .setFifo fun x hx => ⟨x, hl ▸ List.mem_cons_of_mem e hx, .refl x⟩
      have hend : Descends (s.setFifo p l) (endEntry (s.setFifo p l) p e none false) := .of_fifo fun q => by simp
      exact hdrop.trans (hend.trans (dropFrom_descends p l _ (by simp)))
    · exact .of_fifo fun _ => rfl

theorem dropBreaches_descends (s : State) : Descends s (dropBreaches s) := by
  have hfold : ∀ (ps : List Port) (t : State), Descends t (ps.foldl (fun t p => dropFrom p (t.fifo p) t) t) := by
    intro ps
    induction ps with
    | nil => exact fun t => .of_fifo fun _ => rfl
    | cons p ps ih => exact fun t => (dropFrom_descends p _ t rfl).trans (ih _)
  exact hfold allPorts s

theorem grant_descends (s : State) (p : Port) : Descends s (grant s p) := by
  unfold grant
  split
  · exact .of_fifo fun _ => rfl
  · next e rest hfifo =>
    refine Descends.trans (t := s.setFifo p ({ e with
      issued := true
      readData := e.readData ++ if e.kind = .read then s.memory.readRun e.burstStart e.burstBytes else [] } :: rest))
      (.setFifo fun x hx => ?_) (.of_fifo fun _ => rfl)
    obtain rfl | hx := List.mem_cons.mp hx
    · exact ⟨e, by simp [hfifo], rfl, rfl, fun _ => rfl⟩
    · exact ⟨x, by simp [hfifo, hx], .refl x⟩

theorem arbiter_descends (s : State) : Descends s (arbiter s) := by
  unfold arbiter
  split
  · refine (dropBreaches_descends s).trans ?_
    generalize dropBreaches s = t
    unfold chooseAmong
    split
    · exact .of_fifo fun _ => rfl
    · split
      · exact .of_fifo fun _ => rfl
      · split
        · exact grant_descends _ _
        · split <;> exact .of_fifo fun _ => rfl
  · exact .of_fifo fun _ => rfl

theorem reach_descends (s : State) (d : Nat) : Descends s (s.reach d) := by
  unfold State.reach startDue
  split
  · split
    · exact (arbiter_descends s).trans (.of_fifo fun _ => rfl)
    · exact .of_fifo fun _ => rfl
  · exact .of_fifo fun _ => rfl

/-- Idle and waking are the Sequencer's alone. -/
theorem idleClosed_ports : IdleClosed fun s t => t.ports = s.ports where
  refl _ := rfl
  trans h g := g.trans h
  seq _ _ _ := rfl

theorem settle_descends (s : State) : Descends s (settle s) :=
  (arbiter_descends s).trans (.of_fifo fun p =>
    fifo_congr ((idleClosed_ports.wakeForHeads _).trans (idleClosed_ports.updateIdle _)) p)

/-! ### Cancellation that finds nothing -/

theorem cancelFrom_none (p : Port) (hit : Entry → Bool) (pl : Option (List Byte)) (s : State) :
    ∀ l kept : List Entry, (∀ e ∈ l, hit e = false) → cancelFrom p hit pl kept l s = s
  | [], _, _ => rfl
  | e :: l, kept, h => by
    rw [cancelFrom, if_neg (by simp [h e List.mem_cons_self])]
    exact cancelFrom_none p hit pl s l _ fun x hx => h x (List.mem_cons_of_mem e hx)

theorem cancelWaiting_none {s : State} {p : Port} {sel : Entry → Bool} (pl : Option (List Byte))
    (h : ∀ e ∈ s.fifo p, sel e = false) : cancelWaiting s p pl sel = s :=
  cancelFrom_none p _ pl s _ _ fun e he => by simp [h e he]

theorem stopStarted_none {s : State} {p : Port} {sel : Entry → Bool} (o : StopOrder)
    (h : ∀ e ∈ s.fifo p, sel e = false) : stopStarted s p o sel = s := by
  unfold stopStarted
  split
  · rfl
  · next e rest hfifo => rw [if_neg (by simp [h e (by simp [hfifo])])]

/-- A revocation finds nothing in a FIFO with nothing on the region (R112). -/
theorem revokeEntries_none {s : State} {p : Port} {n : SessNo} {i : RegionId} (h : countOn s p i = 0) :
    revokeEntries s p n i = s := by
  have hsel : ∀ e ∈ s.fifo p, (decide (e.region = i) && decide (e.session = n)) = false := fun e he => by
    simp [countOn_eq_zero_iff.mp h e he]
  unfold revokeEntries
  dsimp only
  rw [stopStarted_none _ hsel, cancelWaiting_none _ hsel]

/-! ### The removal of the last holder -/

/-- The record of a region that its last holder has left, with no offer out: FREE, or offered to its head (R72). -/
def vacated (now window : Nat) (r : Region) : Region :=
  match r.queue with
  | [] => { r with holders := [], recallDeadline := none, state := .free }
  | c :: rest => { r with
      holders := [], recallDeadline := none, state := .offered, queue := rest
      offer := some ⟨c.port, c.session, c.mode, now + window * 1000000⟩ }

theorem settleRegion_vacated {s : State} {i : RegionId} {r : Region} (hr : s.region i = some { r with holders := [] })
    (ho : r.offer = none) :
    (settleRegion s i).region i = some (vacated s.now s.params.acceptWindowMs r) := by
  cases hq : r.queue with
  | nil => simp [settleRegion_frees hr rfl ho hq, vacated, hq]
  | cons c rest =>
    have hresolve : resolve { r with holders := [] } = { r with holders := [], recallDeadline := none, state := .free } := by
      rw [resolve, if_pos rfl, ho]
      rfl
    rw [settleRegion, editRegion_some _ hr, hresolve]
    have hoffers := trigger_offers (region_setRegion_self s i
      (some { r with holders := [], recallDeadline := none, state := .free })) (by simp) (by simp) rfl ho hq
    rw [hoffers, offerHead_region (r := { r with holders := [], recallDeadline := none, state := .free }) rfl hq]
    simp [vacated, hq]

namespace OnRegion

variable {i : RegionId}

theorem removeHolder (s : State) (h : Holder) : OnRegion i s (Machine.removeHolder s i h) := editRegion s _

theorem removeRevoked (s : State) (h : Holder) : OnRegion i s (Machine.removeRevoked s i h) := by
  unfold Machine.removeRevoked
  split
  · exact refl s
  · exact (removeHolder s h).trans ((answerReleases _ h .revoked).trans ((postEntry _ _ _ _ _).trans (settleRegion _)))

end OnRegion

/-- A revoke-pending holder that is alone leaves its region to the queue (R83). -/
theorem removeRevoked_region {s : State} {i : RegionId} {r : Region} {h : Holder} (hr : s.region i = some r)
    (hh : r.holders = [h]) (ho : r.offer = none) :
    (removeRevoked s i h).region i = some (vacated s.now s.params.acceptWindowMs r) := by
  have hremoved : removeHolder s i h = s.setRegion i (some { r with holders := [] }) := by
    rw [removeHolder, editRegion_some _ hr, hh, eraseHolder_singleton]
  have hoff : OffPorts (removeHolder s i h) (postEntry (answerReleases (removeHolder s i h) h .revoked) h.port h.session
      h.lost (.revoked i r.epoch)) :=
    (OffPorts.foldl _ (fun t q => answer_offPorts t q .revoked) h.releases _).trans (postEntry_offPorts _ _ _ _ _)
  simp only [removeRevoked, hr]
  rw [settleRegion_vacated (r := r) (by rw [hoff.region, hremoved, region_setRegion_self]) ho, hoff.now, hoff.params,
    hremoved]
  rfl

/-- The revocation of the one holder, with nothing of it in its FIFO: it is removed at once (R81, R83). -/
theorem revokeAll_single {s : State} {i : RegionId} {r x : Region} {h : Holder} (hx : x.holders = [h])
    (hr : s.region i = some r) (hh : r.holders = [h]) (ho : r.offer = none) (hpending : h.revokePending = false)
    (hlost : h.lost = false) (hcount : countOn s h.port i = 0) :
    OnRegion i s (revokeAll s i x) ∧ KeepsReplies s (revokeAll s i x) ∧
      (revokeAll s i x).region i = some (vacated s.now s.params.acceptWindowMs r) := by
  have hall : revokeAll s i x = revokeHolder i s h := by simp [revokeAll, hx, hpending]
  have hmarked : revokeHolder i s h
      = removeRevoked (s.setRegion i (some { r with holders := [{ h with revokePending := true }] })) i
          { h with revokePending := true } := by
    have hcount' : countOn (s.setRegion i (some { r with holders := [{ h with revokePending := true }] })) h.port i = 0 :=
      hcount
    have hmap : mapHolder h (fun y => { y with revokePending := true }) [h] = [{ h with revokePending := true }] := by
      simp [mapHolder, same_self]
    unfold revokeHolder
    dsimp only
    rw [editRegion_some _ hr, hh, hmap, revokeEntries_none hcount', if_pos ⟨hcount', by simp [hlost]⟩]
  refine ⟨?_, closed_keepsReplies.revokeAll s i x, ?_⟩
  · rw [hall, hmarked]
    exact (OnRegion.setRegion s _).trans (.removeRevoked _ _)
  · rw [hall, hmarked, removeRevoked_region (region_setRegion_self s i
      (some { r with holders := [{ h with revokePending := true }] })) rfl ho]
    simp [vacated]

/-! ### REVOKE -/

/-- Settles O37: the OK, and then the revocation of the one holder, whose region it leaves FREE. -/
theorem revokeRemovesTheHolder : Obligations.RevokeRemovesTheHolder := by
  intro p tb b i r s h hl
  have hexec : exec (.revoke p tb [b]) s = .next
      (match r.state with
        | .free | .offered | .fenced => answer (afterTake s p tb) (replyFor s p .revoke tb) .notHeld
        | .exclusive | .shared | .recalling =>
          revokeHeld (afterTake s p tb) ⟨replyFor s p .revoke tb, tb, [b]⟩ i r) :=
    exec_onRegion (k := .revoke) rfl h rfl hl
  refine ⟨fun hstate => ?_, fun x hstate hholders hoffer hqueue hpending hlost hcount => ?_⟩
  · refine answersStatus_of_answer _ s p .revoke tb .notHeld (hexec.trans ?_)
    obtain hs | hs | hs := hstate <;> rw [hs]
  · have hheld : exec (.revoke p tb [b]) s
        = .next (revokeHeld (afterTake s p tb) ⟨replyFor s p .revoke tb, tb, [b]⟩ i r) := by
      refine hexec.trans ?_
      obtain hs | hs | hs := hstate <;> rw [hs]
    have hans := answered_handReply ((afterTake s p tb).setRegion i (some { r with recallDeadline := none })) _ false
      false [0x00] (accepts_taken s p .revoke tb)
    have hreply : OnRegion i (afterTake s p tb)
        (reply ((afterTake s p tb).setRegion i (some { r with recallDeadline := none })) (replyFor s p .revoke tb) [0x00]) :=
      (OnRegion.setRegion _ _).trans (.handReply _ _ _ _ _)
    obtain ⟨hon, hkeeps, hregion⟩ := revokeAll_single (x := r) (r := { r with recallDeadline := none }) hholders
      (reply_setRegion_region (afterTake s p tb) (replyFor s p .revoke tb) [0x00] i _) hholders hoffer hpending hlost
      (by rw [hreply.countOn, countOn_afterTake, hcount])
    have hwhole := hreply.trans hon
    refine ⟨_, hheld, ?_, ?_, fun j hj => ?_, ?_⟩
    · exact ((afterTake_offPorts s p tb).offRegions.trans hwhole.off).offWork.trans (settle_onlyWork _).offWork
    · exact settle_keepsReplies _ _ _ (hkeeps _ _ hans.replied)
    · exact (settle_region _ j).trans ((hwhole.others j hj).trans (afterTake_region s p tb j))
    · refine (settle_region _ i).trans (hregion.trans ?_)
      simp [vacated, hqueue]

/-! ### Deadlines -/

/-- The record a standing offer's end is resolved from, and the trigger's choice on it (R66). -/
theorem exec_offerDeadlineExpiry {s : State} {i : RegionId} {r : Region} {o : Offer} (hrun : s.isRunning = true)
    (hr : s.region i = some r) (ho : r.offer = some o) :
    exec (.offerDeadlineExpiry i) s = .next (expireOffer (s.reach o.deadline) i r o) := by
  have hexec : exec (.offerDeadlineExpiry i) s = execOfferDeadlineExpiry i s := rfl
  rw [hexec, execOfferDeadlineExpiry, if_pos hrun, hr]
  dsimp only
  rw [ho]

theorem expireOffer_onRegion (s : State) (i : RegionId) (r : Region) (o : Offer) : OnRegion i s (expireOffer s i r o) :=
  (OnRegion.setRegion s _).trans ((OnRegion.postEntry _ _ _ _ _).trans (.trigger _))

theorem postEntry_setRegion_region (s : State) (i : RegionId) (x : Option Region) (p : Port) (n : SessNo) (lost : Bool)
    (notice : Notice) : (postEntry (s.setRegion i x) p n lost notice).region i = x := by
  rw [(postEntry_offPorts _ _ _ _ _).region, region_setRegion_self]

theorem exec_recallDeadlineExpiry {s : State} {i : RegionId} {r : Region} {d : Nat} (hrun : s.isRunning = true)
    (hr : s.region i = some r) (hd : r.recallDeadline = some d) :
    exec (.recallDeadlineExpiry i) s = .next (expireRecall (s.reach d) i r) := by
  have hexec : exec (.recallDeadlineExpiry i) s = execRecallDeadlineExpiry i s := rfl
  rw [hexec, execRecallDeadlineExpiry, if_pos hrun, hr]
  dsimp only
  rw [hd]

/-- Settles O39: the offer's end leaves the trigger its case; the recall's end revokes the one holder, after which the
head is offered. -/
theorem deadlinesEndOffersAndLeases : Obligations.DeadlinesEndOffersAndLeases := by
  refine ⟨fun i r o s hrun hr ho => ?_, fun i r d x c rest s hrun hr hstate hd hholders hpending hlost hcount hoffer
    hqueue => ?_⟩
  · have hexec := exec_offerDeadlineExpiry hrun hr ho
    have hon := expireOffer_onRegion (s.reach o.deadline) i r o
    have hothers : ∀ j, j ≠ i → (expireOffer (s.reach o.deadline) i r o).region j = s.region j := fun j hj =>
      (hon.others j hj).trans (reach_region s o.deadline j)
    have hstored := postEntry_setRegion_region (s.reach o.deadline) i (some { r with offer := none }) o.port o.session
      false (.lapsed i)
    refine ⟨fun hstate hholders => ⟨_, hexec, hon.off, hothers, fun hqueue => ?_, fun c rest hqueue => ?_⟩,
      fun hstate hholders hqueue => ⟨_, hexec, hon.off, hothers, ?_⟩⟩
    · rw [expireOffer, trigger_frees hstored (by simp [hstate]) (by simp [hstate]) hholders rfl hqueue,
        region_setRegion_self]
    · rw [expireOffer, trigger_offers hstored (by simp [hstate]) (by simp [hstate]) hholders rfl hqueue,
        offerHead_region (r := { r with offer := none }) hholders hqueue]
      simp [(postEntry_offPorts _ _ _ _ _).now, (postEntry_offPorts _ _ _ _ _).params, hstate]
    · rw [expireOffer, trigger_rests hstored (rests_held (by simp [hstate]) hqueue hholders), hstored]
  · have hexec := exec_recallDeadlineExpiry hrun hr hd
    have hstored : OnRegion i (s.reach d) ((s.reach d).setRegion i (some { r with recallDeadline := none })) :=
      .setRegion _ _
    obtain ⟨hon, -, hregion⟩ := revokeAll_single (x := { r with recallDeadline := none })
      (r := { r with recallDeadline := none }) hholders (region_setRegion_self (s.reach d) i _) hholders hoffer hpending
      hlost (by rw [hstored.countOn]; exact (reach_descends s d).countOn hcount)
    have hwhole := hstored.trans hon
    refine ⟨_, hexec, ?_, fun j hj => ?_, ?_⟩
    · exact (reach_offWork s d).trans (hwhole.off.offWork.trans (settle_onlyWork _).offWork)
    · exact (settle_region _ j).trans ((hwhole.others j hj).trans (reach_region s d j))
    · refine (settle_region _ i).trans (hregion.trans ?_)
      simp [vacated, hqueue]

/-! ### End reports -/

theorem handReply_entry_ne (s : State) (r : ReplyTo) (a b : Bool) (pl : List Byte) {u : Tag} (h : u ≠ r.tag) :
    ((handReply s r a b pl).link r.port).entry u = (s.link r.port).entry u := by
  by_cases hacc : acceptsReply s r = true
  · exact (answered_handReply s r a b pl hacc).otherTags u h
  · rw [handReply, if_neg hacc]

/-- RELEASEs answered one after another: each whose tag is in flight has its reply at the end (R71, R82). -/
theorem replied_of_releases {p : Port} {n : SessNo} {st : Status} {u : Tag} :
    ∀ (l : List Tag) (s : State), s.presentSession p = some n →
      (((s.link p).entry u = .taken (some n) ∧ u ∈ l) ∨ Replied s ⟨p, u, some n, .release⟩ [st.code]) →
      Replied ((l.map fun t => (⟨p, t, some n, .release⟩ : ReplyTo)).foldl (fun t q => answer t q st) s)
        ⟨p, u, some n, .release⟩ [st.code]
  | [], s, _, h => by
    obtain ⟨-, hmem⟩ | h := h
    · cases hmem
    · exact h
  | x :: l, s, hn, h => by
    refine replied_of_releases l _ ?_ ?_
    · simpa [State.presentSession, answer, reply] using hn
    · obtain ⟨htaken, hmem⟩ | h := h
      · by_cases hx : u = x
        · subst hx
          exact .inr (answered_handReply s _ false false _ (by simp [acceptsReply, htaken, hn])).replied
        · refine .inl ⟨?_, (List.mem_cons.mp hmem).resolve_left hx⟩
          exact (handReply_entry_ne s ⟨p, x, some n, .release⟩ _ _ _ hx).trans htaken
      · exact .inr (closed_keepsReplies.answer s _ st _ _ h)

theorem exec_transactionEndReport {s : State} {e : EndReport} {rest : List EndReport} (hrun : s.isRunning = true)
    (hreports : s.reports = e :: rest) :
    exec .transactionEndReport s = .next (takeReport { s with reports := rest } e) := by
  have hexec : exec .transactionEndReport s = execTransactionEndReport s := rfl
  rw [hexec, execTransactionEndReport, if_pos hrun, hreports]

/-- A report with the number 0, and nothing of the port left on the region: the present session's one lease ends by its
mark (R74). -/
theorem takeReport_single {s : State} {e : EndReport} {r : Region} {h : Holder} (hr : s.region e.region = some r)
    (hzero : e.count = 0) (hcount : countOn s e.port e.region = 0) (hholders : r.holders = [h]) (hport : h.port = e.port)
    (hsession : s.presentSession e.port = some h.session) (hlost : h.lost = false) :
    takeReport s e =
      if h.revokePending then removeRevoked s e.region h
      else if h.releasing then endRelease s e.region h else s := by
  have hin : holderIn r e.port (s.presentSession e.port) = some h := by
    simp [holderIn, hholders, hport, hsession, hlost]
  simp only [takeReport, hr]
  rw [if_pos ⟨hzero, hcount⟩, hin]

/-- Settles O40: the report's number, and the mark on the port's entry, decide on the removal, and the region is left
with nobody. -/
theorem endReportsFinishReleases : Obligations.EndReportsFinishReleases := by
  intro e rest s hrun hreports
  have hexec := exec_transactionEndReport hrun hreports
  refine ⟨fun hskip => ?_, fun r h hr hzero hcount hholders hport hsession hlost hrevoke hoffer hqueue _ => ?_,
    fun r h u hr hzero hcount hholders hport hsession hlost hrevoke hwaits hoffer hqueue _ htaken => ?_⟩
  · rw [hexec, takeReport]
    split
    · rfl
    · next r hr =>
      rw [if_neg]
      rintro ⟨hzero, -⟩
      obtain hne | hnone := hskip
      · exact hne hzero
      · exact absurd (hnone.symm.trans hr) (by simp)
  · have hr' : ({ s with reports := rest } : State).region e.region = some r := hr
    have htake : takeReport { s with reports := rest } e = removeRevoked { s with reports := rest } e.region h := by
      rw [takeReport_single hr' hzero hcount hholders hport hsession hlost, if_pos hrevoke]
    rw [htake] at hexec
    have hon := OnRegion.removeRevoked (i := e.region) { s with reports := rest } h
    refine ⟨_, hexec, hon.off, hon.others, ?_, fun u hu htaken => ?_⟩
    · rw [removeRevoked_region hr' hholders hoffer]
      simp [vacated, hqueue]
    · rw [← hport] at hsession htaken ⊢
      have hreleased := replied_of_releases (st := .revoked) h.pendingRelease
        (removeHolder { s with reports := rest } e.region h)
        (((OnRegion.removeHolder _ h).present _).trans hsession)
        (.inl ⟨by rw [removeHolder, editRegion_some _ hr']; exact htaken, hu⟩)
      simp only [removeRevoked, hr']
      exact closed_keepsReplies.settleRegion _ _ _ _ (closed_keepsReplies.postEntry _ _ _ _ _ _ _ hreleased)
  · have hr' : ({ s with reports := rest } : State).region e.region = some r := hr
    have htake : takeReport { s with reports := rest } e = endRelease { s with reports := rest } e.region h := by
      rw [takeReport_single hr' hzero hcount hholders hport hsession hlost, if_neg (by simp [hrevoke]),
        if_pos (by simp [Holder.releasing, hwaits])]
    have hremoved : removeHolder { s with reports := rest } e.region h
        = ({ s with reports := rest } : State).setRegion e.region (some { r with holders := [] }) := by
      rw [removeHolder, editRegion_some _ hr', hholders, eraseHolder_singleton]
    have hreleases : answerReleases (removeHolder { s with reports := rest } e.region h) h .ok
        = answer (({ s with reports := rest } : State).setRegion e.region (some { r with holders := [] }))
            ⟨e.port, u, some h.session, .release⟩ .ok := by
      rw [hremoved, answerReleases, Holder.releases, hwaits, hport]
      rfl
    have hfrees := settleRegion_frees (reply_setRegion_region { s with reports := rest }
      ⟨e.port, u, some h.session, .release⟩ [0x00] e.region (some { r with holders := [] })) rfl hoffer hqueue
    have hend : endRelease { s with reports := rest } e.region h = _ := (congrArg (settleRegion · e.region) hreleases).trans hfrees
    rw [htake, hend] at hexec
    refine ⟨_, hexec, ?_⟩
    have hans := (answered_handReply (({ s with reports := rest } : State).setRegion e.region (some { r with holders := [] }))
      ⟨e.port, u, some h.session, .release⟩ false false [0x00] (by
        simp only [acceptsReply, Bool.and_eq_true, decide_eq_true_eq]
        exact ⟨htaken, hsession⟩)).setRegion e.region (some { r with holders := [], recallDeadline := none, state := .free })
    rwa [setRegion_setRegion] at hans

end Sys2Proof.Machine
end

section
/-! PROOFS. Transaction requests (R100 to R104, R117): the checks on the region, the entry into the FIFO, and the
admission slot. -/

namespace Sys2Proof.Machine

/-! ### The checks -/

section
variable {s : State} {k : TxKind} {q : Request} {f : TxFields} {i : RegionId} {r : Region} {h : Holder}

theorem takeTx_badLength (hf : q.fields (readTx k) = some f) (hlen : lengthInRange k f.length = false) :
    takeTx s k q = answer s q.replyTo .badParam := by
  simp only [takeTx, hf, hlen, Bool.false_eq_true, if_false]

theorem takeTx_notHeld (hf : q.fields (readTx k) = some f) (hlen : lengthInRange k f.length = true)
    (hl : lookup s f.id = some (i, r)) (hh : holderIn r q.replyTo.port q.replyTo.session = none) :
    takeTx s k q = answer s q.replyTo .notHeld := by
  simp only [takeTx, hf, hlen, hl, hh, if_true]

theorem takeTx_refused {st : Status} (hf : q.fields (readTx k) = some f) (hlen : lengthInRange k f.length = true)
    (hl : lookup s f.id = some (i, r)) (hh : holderIn r q.replyTo.port q.replyTo.session = some h)
    (hst : txRefusal s k f r h = some st) : takeTx s k q = answer s q.replyTo st := by
  simp only [takeTx, hf, hlen, hl, hh, hst, if_true]

theorem takeTx_admitted (hf : q.fields (readTx k) = some f) (hlen : lengthInRange k f.length = true)
    (hl : lookup s f.id = some (i, r)) (hh : holderIn r q.replyTo.port q.replyTo.session = some h)
    (hst : txRefusal s k f r h = none) :
    takeTx s k q = admitTx s q.replyTo.port (newEntry q h.session k f i r) := by
  simp only [takeTx, hf, hlen, hl, hh, hst, if_true]

/-! The checks of R101 one after another: each is stated with those before it passed. -/

theorem txRefusal_revoked (hrevoke : h.revokePending = true) : txRefusal s k f r h = some .revoked := if_pos hrevoke

theorem txRefusal_stale (hrevoke : h.revokePending = false) (hepoch : f.epoch ≠ r.epoch) :
    txRefusal s k f r h = some .stale := by
  rw [txRefusal, if_neg (by simp [hrevoke]), if_pos hepoch]

theorem txRefusal_notExclusive (hrevoke : h.revokePending = false) (hepoch : f.epoch = r.epoch) (hk : k ≠ .read)
    (hmode : h.mode = .shared) : txRefusal s k f r h = some .notExclusive := by
  rw [txRefusal, if_neg (by simp [hrevoke]), if_neg (not_not.mpr hepoch), if_pos ⟨hk, by simp [hmode]⟩]

/-- With the lease in order the release, the range and the memory state remain (R101, R102). -/
theorem txRefusal_leased (hrevoke : h.revokePending = false) (hepoch : f.epoch = r.epoch)
    (hmode : k = .read ∨ h.mode = .exclusive) :
    txRefusal s k f r h =
      if h.releasing then some .releasing
      else if r.pageCount * 4096 < f.offset + f.length then some .outOfRange
      else memoryRefusal s := by
  have hin : ¬ (k ≠ .read ∧ h.mode ≠ .exclusive) := fun hc => hmode.elim hc.1 hc.2
  rw [txRefusal, if_neg (by simp [hrevoke]), if_neg (not_not.mpr hepoch), if_neg hin]

theorem txRefusal_inRange (hrevoke : h.revokePending = false) (hepoch : f.epoch = r.epoch)
    (hmode : k = .read ∨ h.mode = .exclusive) (hnone : h.pendingRelease = [])
    (hrange : f.offset + f.length ≤ r.pageCount * 4096) : txRefusal s k f r h = memoryRefusal s := by
  rw [txRefusal_leased hrevoke hepoch hmode, if_neg (by simp [Holder.releasing, hnone]), if_neg (Nat.not_lt.mpr hrange)]

end

/-- Settles O41: the length, the region, the lease, and the checks of R101 and R102, each after those before it. -/
theorem transactionsAreCheckedInOrder : Obligations.TransactionsAreCheckedInOrder := by
  intro k p tb pl f s h hroom hread
  have hsession := replyFor_session s p k.kind tb h.2.1.1
  have hfields := (fields_unflagged (replyFor s p k.kind tb) tb pl (readTx k) h.2.2).trans hread
  have hstatus : ∀ {st}, takeTx (afterTake s p tb) k ⟨replyFor s p k.kind tb, tb, pl⟩
        = answer (afterTake s p tb) (replyFor s p k.kind tb) st →
      AnswersStatus (requestCommand k.kind p tb pl) s (replyFor s p k.kind tb) st := fun {st} htake =>
    answersStatus_of_answer _ s p k.kind tb st ((exec_txRequest h hroom).trans (congrArg _ htake))
  refine ⟨fun hlen => hstatus (takeTx_badLength hfields hlen), fun hlen => ⟨fun hl => ?_, fun i r hl => ⟨fun hh => ?_, ?_⟩⟩⟩
  · exact txAnswersNoRegion h hroom hread hlen hl
  · exact hstatus (takeTx_notHeld hfields hlen ((afterTake_lookup s p tb _).trans hl) (by rw [hsession]; exact hh))
  · intro x hx
    have hrefused : ∀ {st}, txRefusal (afterTake s p tb) k f r x = some st →
        AnswersStatus (requestCommand k.kind p tb pl) s (replyFor s p k.kind tb) st := fun {st} hst =>
      hstatus (takeTx_refused hfields hlen ((afterTake_lookup s p tb _).trans hl) (by rw [hsession]; exact hx) hst)
    refine ⟨fun hrevoke => hrefused (txRefusal_revoked hrevoke), fun hrevoke => ⟨fun hepoch => ?_, fun hepoch => ?_⟩⟩
    · exact hrefused (txRefusal_stale hrevoke hepoch)
    refine ⟨fun hk hmode => hrefused (txRefusal_notExclusive hrevoke hepoch hk hmode), fun hmode => ?_⟩
    refine ⟨fun hwaits => hrefused ?_, fun hnone => ⟨fun hout => hrefused ?_, fun hrange => ?_⟩⟩
    · rw [txRefusal_leased hrevoke hepoch hmode, if_pos (by simp [Holder.releasing, hwaits])]
    · rw [txRefusal_leased hrevoke hepoch hmode, if_neg (by simp [Holder.releasing, hnone]), if_pos hout]
    have hmemory := txRefusal_inRange (s := afterTake s p tb) hrevoke hepoch hmode hnone hrange
    refine ⟨fun hhold => hrefused ?_, fun hhold hdram => hrefused ?_, fun hhold hdram => hrefused ?_⟩ <;>
      rw [hmemory, memoryRefusal, afterTake_hold, afterTake_seq, hhold]
    · rfl
    · rw [hdram]
      rfl
    · obtain hdram | ⟨x, hdram⟩ := hdram <;> rw [hdram] <;> rfl

/-! ### The entry into the FIFO -/

theorem memoryRefusal_none {s : State} (hhold : s.retentionHold = false)
    (hdram : s.seq.dram = .ready ∨ (∃ x, s.seq.dram = .powerDown x) ∨ ∃ x, s.seq.dram = .selfRefresh x) :
    memoryRefusal s = none := by
  rw [memoryRefusal, hhold]
  obtain hdram | ⟨x, hdram⟩ | ⟨x, hdram⟩ := hdram <;> rw [hdram] <;> rfl

theorem idleNow_eq_false_of_dram {s : State} (h : s.seq.dram ≠ .ready) : idleNow s = false := by simp [idleNow, h]

theorem idleNow_eq_false_of_bus {s : State} (h : s.seq.bus ≠ .free) : idleNow s = false := by simp [idleNow, h]

theorem idleNow_eq_false_of_eligible {s : State} (h : anyEligible s = true) : idleNow s = false := by simp [idleNow, h]

theorem updateIdle_stays {s : State} (hnow : idleNow s = false) (hidle : s.seq.idle = false) : updateIdle s = s := by
  rw [updateIdle, if_neg (by simp [hnow]), if_neg (by simp [hidle])]

theorem updateIdle_ends {s : State} (hnow : idleNow s = false) (hidle : s.seq.idle = true) :
    updateIdle s = s.setSeq { s.seq with idle := false, pdTimer := none, srTimer := none } := by
  rw [updateIdle, if_neg (by simp [hnow]), if_pos hidle]

/-- Where the DRAM is not idle, only the idle flag and its timers can change. -/
theorem updateIdle_active {s : State} (hnow : idleNow s = false) :
    (updateIdle s).ports = s.ports ∧ (updateIdle s).regions = s.regions ∧ (updateIdle s).seq.dram = s.seq.dram ∧
      (updateIdle s).seq.residency = s.seq.residency := by
  cases hidle : s.seq.idle
  · rw [updateIdle_stays hnow hidle]
    exact ⟨rfl, rfl, rfl, rfl⟩
  · rw [updateIdle_ends hnow hidle]
    exact ⟨rfl, rfl, rfl, rfl⟩

theorem wakeForHeads_ready {s : State} (h : s.seq.dram = .ready) : wakeForHeads s = s := by
  simp only [wakeForHeads, h]

theorem mem_allPorts (p : Port) : p ∈ allPorts := by cases p <;> decide

theorem anyEligible_of {s : State} {p : Port} (h : eligible s p = true) : anyEligible s = true :=
  List.any_eq_true.mpr ⟨p, mem_allPorts p, h⟩

/-- Eligibility depends on the FIFOs and the region table alone (R123). -/
theorem eligible_congr {s t : State} (hports : t.ports = s.ports) (hregions : t.regions = s.regions) (p : Port) :
    eligible t p = eligible s p := by
  unfold eligible leaseStands
  rw [fifo_congr hports]
  simp only [region_congr hregions]

theorem holderIn_eq_some {r : Region} {p : Port} {n : SessNo} {h : Holder} (hh : holderIn r p (some n) = some h) :
    h ∈ r.holders ∧ h.port = p ∧ h.session = n := by
  have hmem := List.mem_of_find?_eq_some hh
  have hprop := List.find?_some hh
  simp only [Bool.and_eq_true, decide_eq_true_eq, Option.some.injEq] at hprop
  exact ⟨hmem, hprop.1.1, hprop.1.2⟩

theorem lengthInRange_pos {k : TxKind} {n : Nat} (h : lengthInRange k n = true) : 1 ≤ n := by
  cases k <;> simp_all [lengthInRange]

/-- A new entry at its FIFO's head is eligible under the lease that admitted it (R106, R108, R123). -/
theorem eligible_newEntry {s : State} {p : Port} {q : Request} {n : SessNo} {k : TxKind} {f : TxFields} {i : RegionId}
    {r : Region} {h : Holder} (hfifo : s.fifo p = [newEntry q n k f i r]) (hr : s.region i = some r)
    (hh : holderIn r p (some n) = some h) (hlen : lengthInRange k f.length = true) (hepoch : f.epoch = r.epoch)
    (hmode : k = .read ∨ h.mode = .exclusive) : eligible s p = true := by
  obtain ⟨hmem, hport, hsession⟩ := holderIn_eq_some hh
  have hpos := lengthInRange_pos hlen
  have hoffers : (newEntry q n k f i r).offers = true := by
    have hburst : 0 < (newEntry q n k f i r).bursts := by
      simp only [Entry.bursts, newEntry]
      omega
    simp only [Entry.offers, Bool.and_eq_true, decide_eq_true_eq]
    exact ⟨⟨rfl, hburst⟩, by simp [newEntry]⟩
  have hlease : leaseStands s p (newEntry q n k f i r) = true := by
    obtain rfl | hexclusive := hmode
    · rfl
    · have hholder : r.holders.any (fun x => decide (x.port = p) && decide (x.session = n) &&
          decide (x.mode = .exclusive)) = true :=
        List.any_eq_true.mpr ⟨h, hmem, by simp [hport, hsession, hexclusive]⟩
      have hregion : s.region (newEntry q n k f i r).region = some r := hr
      unfold leaseStands
      rw [hregion]
      split
      · rfl
      all_goals exact Bool.and_eq_true_iff.mpr ⟨by simp [newEntry, hepoch], hholder⟩
  simp only [eligible, hfifo, hoffers, hlease, Bool.and_self]

/-- While the DRAM is READY and busy the entry joins its FIFO, and that is all (R103, R117). -/
theorem admitTx_busy {s : State} (p : Port) (e : Entry) (hdram : s.seq.dram = .ready) (hbus : s.seq.bus ≠ .free)
    (hidle : s.seq.idle = false) : admitTx s p e = s.setFifo p (s.fifo p ++ [e]) := by
  unfold admitTx
  rw [arbiter_of_busy hbus]
  dsimp only
  rw [updateIdle_stays (s := s.setFifo p _) (idleNow_eq_false_of_bus hbus) hidle]
  exact wakeForHeads_ready hdram

theorem dropBreaches_empty {s : State} (h : ∀ q, s.fifo q = []) : dropBreaches s = s := by
  have hdrop : ∀ ps : List Port, ps.foldl (fun t p => dropFrom p (t.fifo p) t) s = s := by
    intro ps
    induction ps with
    | nil => rfl
    | cons p ps ih => rw [List.foldl_cons, h p, dropFrom, ih]
  exact hdrop allPorts

theorem eligible_of_empty {s : State} {p : Port} (h : s.fifo p = []) : eligible s p = false := by simp [eligible, h]

/-- With every FIFO empty and no debt the arbiter has nothing to do. -/
theorem arbiter_empty {s : State} (h : ∀ q, s.fifo q = []) (hdebt : s.seq.debt = 0) : arbiter s = s := by
  unfold arbiter
  split
  · have hnone : (cycleAfter s.seq.lastServed).find? (eligible s) = none :=
      List.find?_eq_none.mpr fun q _ => by simp [eligible_of_empty (h q)]
    rw [dropBreaches_empty h, chooseAmong, hnone, hdebt]
    simp
  · rfl

/-- In the idle DRAM the entry ends idle, and does not start (R117, R135). -/
theorem admitTx_idle {s : State} {p : Port} {e : Entry} (hdram : s.seq.dram = .ready) (hdebt : s.seq.debt = 0)
    (hidle : s.seq.idle = true) (hempty : ∀ q, s.fifo q = []) (he : eligible (s.setFifo p [e]) p = true) :
    admitTx s p e = (s.setFifo p [e]).setSeq { s.seq with idle := false, pdTimer := none, srTimer := none } := by
  unfold admitTx
  rw [arbiter_empty hempty hdebt]
  dsimp only
  rw [hempty p, List.nil_append, updateIdle_ends (idleNow_eq_false_of_eligible (anyEligible_of he)) hidle]
  exact wakeForHeads_ready hdram

/-- In a DRAM that sleeps the first entry of a port is there when the heads are looked at (R140, R147). -/
theorem admitTx_asleep {s : State} {p : Port} {e : Entry} (hdram : s.seq.dram ≠ .ready) (hempty : s.fifo p = [])
    (he : eligible (s.setFifo p [e]) p = true) :
    ∃ t, admitTx s p e = wakeForHeads t ∧ t.fifo p = [e] ∧ t.seq.dram = s.seq.dram ∧
      t.seq.residency = s.seq.residency ∧ anyEligible t = true := by
  unfold admitTx
  rw [arbiter_of_not_ready hdram]
  dsimp only
  rw [hempty, List.nil_append]
  obtain ⟨hports, hregions, hdram', hres⟩ := updateIdle_active (s := s.setFifo p [e]) (idleNow_eq_false_of_dram hdram)
  refine ⟨_, rfl, ?_, hdram', hres, anyEligible_of ((eligible_congr hports hregions p).trans he)⟩
  rw [fifo_congr hports, fifo_setFifo_self]

/-- Settles O42: the checks pass, and the DRAM's state decides what the new entry does beside joining its FIFO. -/
theorem admittedTransactionsEnterTheFifo : Obligations.AdmittedTransactionsEnterTheFifo := by
  intro k p tb pl f i r h s hreach hroom hread hlen hl hh hrevoke hepoch hmode hnone hrange hhold
  have hsession := replyFor_session s p k.kind tb hreach.2.1.1
  have hfields := (fields_unflagged (replyFor s p k.kind tb) tb pl (readTx k) hreach.2.2).trans hread
  obtain ⟨-, -, hnumber⟩ := holderIn_eq_some hh
  have hexec : memoryRefusal s = none → exec (requestCommand k.kind p tb pl) s
      = .next (admitTx (afterTake s p tb) p (newEntry ⟨replyFor s p k.kind tb, tb, pl⟩ (s.session p).number k f i r)) := by
    intro hmemory
    have hmemory' : memoryRefusal (afterTake s p tb) = none := by
      rwa [memoryRefusal, afterTake_hold, afterTake_seq]
    rw [exec_txRequest hreach hroom, takeTx_admitted hfields hlen ((afterTake_lookup s p tb _).trans hl)
      (by rw [hsession]; exact hh) ((txRefusal_inRange hrevoke hepoch hmode hnone hrange).trans hmemory'), hnumber]
    rfl
  have hentry : newEntry ⟨replyFor s p k.kind tb, tb, pl⟩ (s.session p).number k f i r
      = ⟨tagOf tb, (s.session p).number, k, i, r.epoch, r.basePage * 4096 + f.offset, f.length, f.data, f.pattern,
          0, false, [], none⟩ := by rw [newEntry, hepoch]; rfl
  have heligible : eligible ((afterTake s p tb).setFifo p
      [newEntry ⟨replyFor s p k.kind tb, tb, pl⟩ (s.session p).number k f i r]) p = true :=
    eligible_newEntry (fifo_setFifo_self _ _ _) ((afterTake_region s p tb i).trans (lookup_eq_some_iff.mp hl).2) hh hlen
      hepoch hmode
  refine ⟨fun hdram hbus hidle => ?_, fun hdram hbus hdebt hidle hempty => ?_, fun hempty => ⟨fun x hdram hres => ?_,
    fun x hdram => ?_⟩⟩
  · rw [hexec (memoryRefusal_none hhold (.inl hdram)), admitTx_busy _ _ (by rwa [afterTake_seq]) (by rwa [afterTake_seq])
      (by rwa [afterTake_seq]), afterTake_fifo, hentry]
  · rw [hexec (memoryRefusal_none hhold (.inl hdram)), admitTx_idle (by rwa [afterTake_seq]) (by rwa [afterTake_seq])
      (by rwa [afterTake_seq]) (fun q => (afterTake_fifo s p tb q).trans (hempty q)) heligible, afterTake_seq, hentry]
  · obtain ⟨t, ht, hfifo, hdram', hres', hany⟩ := admitTx_asleep (by rw [afterTake_seq, hdram]; simp)
      ((afterTake_fifo s p tb p).trans hempty) heligible
    rw [afterTake_seq] at hdram' hres'
    refine ⟨_, (hexec (memoryRefusal_none hhold (.inr (.inl ⟨x, hdram⟩)))).trans (congrArg _ ht), ?_⟩
    have hwake : wakeForHeads t = leavePowerDown t x := by
      simp only [wakeForHeads, hdram', hdram, headsInPowerDown, hres', hres, hany, if_true, Option.isSome_none,
        Bool.false_eq_true, if_false]
    rw [hwake, ← hentry]
    exact ⟨hfifo, rfl⟩
  · obtain ⟨t, ht, hfifo, hdram', -, hany⟩ := admitTx_asleep (by rw [afterTake_seq, hdram]; simp)
      ((afterTake_fifo s p tb p).trans hempty) heligible
    rw [afterTake_seq] at hdram'
    refine ⟨_, (hexec (memoryRefusal_none hhold (.inr (.inr ⟨x, hdram⟩)))).trans (congrArg _ ht), ?_⟩
    have hwake : wakeForHeads t = beginWake t .ready .selfRefresh 700 := by
      simp only [wakeForHeads, hdram', hdram, hany, if_true]
    rw [hwake, ← hentry]
    exact ⟨hfifo, rfl⟩

/-! ### The admission slot -/

/-- A FIFO that is full leaves a transaction request to the empty slot. -/
theorem serveTx_full {s : State} {k : TxKind} {q : Request} (hfull : ¬ (s.fifo q.replyTo.port).length < 8)
    (hslot : s.slot q.replyTo.port = none) : serveTx s k q = .next (s.setSlot q.replyTo.port (some q)) := by
  rw [serveTx, if_neg hfull, hslot]

theorem tx_kind (k : TxKind) : k.kind.tx = some k := by cases k <;> rfl

/-- With room in the FIFO the held request leaves the slot and is taken (R104). -/
theorem exec_admissionSlotRelease {s : State} {p : Port} {q : Request} {k : TxKind} (hslot : s.slot p = some q)
    (hroom : (s.fifo p).length < 8) (hk : q.replyTo.kind = k.kind) :
    exec (.admissionSlotRelease p) s = .next (takeTx (s.setSlot p none) k q) := by
  have hexec : exec (.admissionSlotRelease p) s = execAdmissionSlotRelease p s := rfl
  rw [hexec, execAdmissionSlotRelease, if_pos hroom, hslot]
  dsimp only
  rw [hk, tx_kind]

/-- Settles O43: a full FIFO puts the request in the slot; the release checks it as a request that has just come. -/
theorem theAdmissionSlotHoldsOneRequest : Obligations.TheAdmissionSlotHoldsOneRequest := by
  refine ⟨fun k p tb pl s htakes hadmitted hfull hslot => ?_, fun k p q f s hslot hroom hport hkind hflags hread hlen
    haccepts => ?_⟩
  · have hslot' : (afterTake s p tb).slot p = none := (afterTake_slot s p tb p).trans hslot
    have hfull' : ¬ ((afterTake s p tb).fifo p).length < 8 := by rw [afterTake_fifo, hfull]; simp
    rw [exec_admitted s p k.kind tb pl htakes hadmitted, ownerOf_txKind]
    exact serveTx_full (q := ⟨replyFor s p k.kind tb, tb, pl⟩) hfull' hslot'
  · have hexec := exec_admissionSlotRelease hslot hroom hkind
    have hfields : q.fields (readTx k) = some f := by rw [Request.fields, hflags]; exact hread
    have haccepts' : acceptsReply (s.setSlot p none) q.replyTo = true := by
      unfold acceptsReply State.presentSession at haccepts ⊢
      rwa [link_setSlot, session_setSlot]
    refine ⟨fun hl => ?_, fun i r h hl hh hrevoke hepoch hmode hnone hrange hhold hdram hbus hidle => ?_⟩
    · have hl' : lookup (s.setSlot p none) f.id = none := hl
      rw [takeTx_none hfields hlen hl'] at hexec
      exact ⟨_, hexec, answered_handReply _ _ false false _ haccepts'⟩
    · have hl' : lookup (s.setSlot p none) f.id = some (i, r) := hl
      have hmemory : memoryRefusal (s.setSlot p none) = none := memoryRefusal_none hhold (.inl hdram)
      rw [hexec, takeTx_admitted hfields hlen hl' (by rwa [hport])
        ((txRefusal_inRange hrevoke hepoch hmode hnone hrange).trans hmemory), hport,
        admitTx_busy (s := s.setSlot p none) _ _ hdram hbus hidle,
        fifo_setSlot, newEntry, hepoch]

end Sys2Proof.Machine
end

section
/-! PROOFS. Bursts: the arbiter's choice (R106, R123, R125), how bursts cover a range (R105), and what a burst stores
(R97 to R99). -/

namespace Sys2Proof.Machine

/-! ### The first in the cyclic order -/

/-- In a list whose keys rise, the search ends at the element of the smallest key that passes. -/
theorem find?_eq_some_of_least {α : Type} {key : α → Nat} {f : α → Bool} {p : α} :
    ∀ {l : List α}, l.Pairwise (fun a b => key a < key b) → p ∈ l → f p = true →
      (∀ q, f q = true → key p ≤ key q) → l.find? f = some p
  | [], _, hp, _, _ => nomatch hp
  | x :: l, hl, hp, hf, hmin => by
    obtain ⟨hx, hl⟩ := List.pairwise_cons.mp hl
    obtain rfl | hp := List.mem_cons.mp hp
    · exact List.find?_cons_of_pos hf
    · have hfx : ¬ f x = true := fun hfx => Nat.not_lt.mpr (hmin x hfx) (hx p hp)
      rw [List.find?_cons_of_neg hfx]
      exact find?_eq_some_of_least hl hp hf hmin

/-- How far a port comes after the last served one in the order A, B, C, D (R123). -/
def turnsAfter (last p : Port) : Nat := (Port.index p + 3 - Port.index last) % 4

theorem cycleAfter_pairwise (last : Port) :
    (cycleAfter last).Pairwise fun x y => turnsAfter last x < turnsAfter last y := by
  cases last <;> decide

theorem mem_cycleAfter (last p : Port) : p ∈ cycleAfter last := by cases last <;> cases p <;> decide

/-! ### The arbiter's choice -/

theorem dropFrom_stands {s : State} {p : Port} {l : List Entry}
    (h : ∀ x rest, l = x :: rest → x.offers = true → leaseStands s p x = true) : dropFrom p l s = s := by
  cases l with
  | nil => rfl
  | cons x rest =>
    rw [dropFrom, if_neg]
    intro hbreach
    simp only [Bool.and_eq_true, Bool.not_eq_true'] at hbreach
    rw [h x rest rfl hbreach.1] at hbreach
    exact absurd hbreach.2 (by simp)

/-- With every offered head under its lease no head is dropped (R108). -/
theorem dropBreaches_stands {s : State}
    (h : ∀ q x l, s.fifo q = x :: l → x.offers = true → leaseStands s q x = true) : dropBreaches s = s := by
  have hdrop : ∀ ps : List Port, ps.foldl (fun t p => dropFrom p (t.fifo p) t) s = s := by
    intro ps
    induction ps with
    | nil => rfl
    | cons p ps ih => rw [List.foldl_cons, dropFrom_stands (h p), ih]
  exact hdrop allPorts

theorem arbiter_chooses {s : State} (hdram : s.seq.dram = .ready) (hbus : s.seq.bus = .free)
    (h : ∀ q x l, s.fifo q = x :: l → x.offers = true → leaseStands s q x = true) : arbiter s = chooseAmong s := by
  rw [arbiter, if_pos (by simp [hdram, hbus]), dropBreaches_stands h]

/-- A debt of 8 is paid first (R123, R125). -/
theorem chooseAmong_debt {s : State} (hret : s.seq.retEntry = none) (hdebt : s.seq.debt = 8) :
    chooseAmong s = issueRefresh (s.setSeq { s.seq with urgent := true }) := by
  rw [chooseAmong, if_neg (by simp [drainOver, hret]), if_pos (by simp [hdebt])]

/-- Else the first eligible head after the last served port is granted (R123). -/
theorem chooseAmong_head {s : State} {p : Port} (hret : s.seq.retEntry = none) (hdebt : s.seq.debt < 8)
    (hurgent : s.seq.urgent = false) (he : eligible s p = true)
    (hfirst : ∀ q, eligible s q = true → turnsAfter s.seq.lastServed p ≤ turnsAfter s.seq.lastServed q) :
    chooseAmong s = grant s p := by
  rw [chooseAmong, if_neg (by simp [drainOver, hret]), if_neg (by simp [hurgent, hdebt]),
    find?_eq_some_of_least (cycleAfter_pairwise _) (mem_cycleAfter _ p) he hfirst]

/-- Settles O44: no head is dropped, and the debt decides between the refresh and the grant. -/
theorem theArbiterGrantsTheHead : Obligations.TheArbiterGrantsTheHead := by
  intro p e rest s hdram hbus hret hfifo hoffers hlease hstands hfirst
  have he : eligible s p = true := by simp [eligible, hfifo, hoffers, hlease]
  have harbiter := arbiter_chooses hdram hbus hstands
  refine ⟨fun hdebt => ?_, fun hdebt hurgent => ?_, fun d hd => ?_⟩
  · rw [harbiter, chooseAmong_debt hret hdebt]
    refine ⟨rfl, ?_, allClosed_get, fun _ => rfl⟩
    simp [issueRefresh, hdebt]
  · rw [harbiter, chooseAmong_head hret hdebt hurgent he hfirst, grant, hfifo]
    refine ⟨rfl, rfl, rfl, rfl, fun b => ?_, fun q hq => fifo_setFifo_ne s p _ hq, fifo_setFifo_self s p _⟩
    simp only [setSeq_seq, Vector.getElem_set, Fin.ext_iff, eq_comm]
  · have hstart : startDue s = arbiter s := if_pos (anyEligible_of he)
    rw [reach_of_later hd, hstart]

/-! ### The cover of a range -/

/-- Settles O45: linear arithmetic on the block boundaries. -/
theorem burstsCoverTheRange : Obligations.BurstsCoverTheRange := by
  intro e hlen
  unfold Entry.bytesIn Entry.blockAddr Entry.bursts
  refine ⟨by omega, by omega, fun i hi => ⟨by omega, by omega, by omega, by omega, by omega⟩, by omega, by omega⟩

/-- The bursts up to one that the range has cover no more than the range. -/
theorem bytesIn_le_length (e : Entry) (n : Nat) : e.bytesIn n ≤ e.length := by
  unfold Entry.bytesIn
  omega

/-! ### What a burst stores -/

/-- Nothing but the tables by port, the end reports and the Sequencer differs. -/
def OffEngine (s t : State) : Prop := { t with ports := s.ports, reports := s.reports, seq := s.seq } = s

theorem OffEngine.refl (s : State) : OffEngine s s := rfl

theorem OffEngine.trans {s t u : State} (h : OffEngine s t) (g : OffEngine t u) : OffEngine s u := by
  cases s; cases t; cases u
  simp only [OffEngine, State.mk.injEq] at h g ⊢
  simp_all

theorem OffPorts.offEngine {s t : State} (h : OffPorts s t) : OffEngine s t := by
  cases s; cases t
  simp only [OffPorts, OffEngine, State.mk.injEq] at h ⊢
  simp_all

theorem OnlyWork.offEngine {s t : State} (h : OnlyWork s t) : OffEngine s t := h.rest

section
variable {s t : State} (h : OffEngine s t)
include h
theorem OffEngine.memory : t.memory = s.memory := (congrArg State.memory h :)
theorem OffEngine.regions : t.regions = s.regions := (congrArg State.regions h :)
theorem OffEngine.params : t.params = s.params := (congrArg State.params h :)
theorem OffEngine.thermal : t.thermal = s.thermal := (congrArg State.thermal h :)
theorem OffEngine.clock : t.clock = s.clock := (congrArg State.clock h :)
theorem OffEngine.now : t.now = s.now := (congrArg State.now h :)
theorem OffEngine.restart : t.restart = s.restart := (congrArg State.restart h :)
end

theorem endEntry_offEngine (s : State) (p : Port) (e : Entry) (pl : Option (List Byte)) (x : Bool) :
    OffEngine s (endEntry s p e pl x) := by
  have hreport : ∀ t : State, OffEngine t (report (markQuiet t e) p e) := fun t => by
    unfold report markQuiet
    split <;> split <;> rfl
  unfold endEntry
  split
  · exact (handReply_offPorts _ _ _ _ _).offEngine.trans (hreport _)
  · exact hreport s

theorem advanceHead_offEngine (s : State) (p : Port) (e : Entry) (rest : List Entry) :
    OffEngine s (advanceHead s p e rest) := by
  have hfifo : ∀ l, OffEngine s (s.setFifo p l) := fun l => (setFifo_offPorts s p l).offEngine
  unfold advanceHead
  dsimp only
  split
  · exact (hfifo rest).trans (endEntry_offEngine _ _ _ _ _)
  · split
    · exact (hfifo rest).trans (endEntry_offEngine _ _ _ _ _)
    · exact hfifo _

/-- The burst in progress completes at its head (R105). -/
theorem exec_burstComplete {s : State} {p : Port} {pre : Bool} {e : Entry} {rest : List Entry}
    (hbus : s.seq.bus = .burst p pre) (hfifo : s.fifo p = e :: rest) (hin : e.burstStart + e.burstBytes ≤ dramSize) :
    exec .burstComplete s = .next (completeBurst s p pre e rest) := by
  have hexec : exec .burstComplete s = endBurst (startDue s) := rfl
  rw [hexec, startDue_of_busy (by simp [hbus]), endBurst, hbus]
  dsimp only
  rw [hfifo]
  exact if_neg (Nat.not_lt.mpr hin)

theorem completeBurst_offEngine (s : State) (p : Port) (pre : Bool) (e : Entry) (rest : List Entry) :
    OffEngine { s with memory := storeBurst s.memory e } (completeBurst s p pre e rest) := by
  have hseq : OffEngine { s with memory := storeBurst s.memory e }
      { s with memory := storeBurst s.memory e, seq := prechargeAfter s.seq (e.blockAddr e.done) pre } := rfl
  exact hseq.trans ((advanceHead_offEngine _ p e rest).trans (settle_onlyWork _).offEngine)

theorem burstData_length_write {e : Entry} (hk : e.kind = .write) (hd : e.data.length = e.length) :
    e.burstData.length = e.burstBytes := by
  have := bytesIn_le_length e (e.done + 1)
  simp only [Entry.burstData, hk, List.length_take, List.length_drop, hd, Entry.burstBytes]
  omega

theorem storeBurst_outside {m : Memory} {e : Entry} {a : Nat} (h : a < e.burstStart ∨ e.burstStart + e.burstBytes ≤ a) :
    (storeBurst m e).read a = m.read a := by
  have := burstData_length_le e
  exact read_writeRun_outside _ _ _ _ (by omega)

theorem storeBurst_write {m : Memory} {e : Entry} {j : Nat} (hk : e.kind = .write) (hd : e.data.length = e.length)
    (hj : j < e.burstBytes) : (storeBurst m e).read (e.burstStart + j) = e.data.getD (e.bytesIn e.done + j) 0 := by
  have hlen := burstData_length_write hk hd
  rw [storeBurst, read_writeRun_inside _ _ _ _ (hlen ▸ hj)]
  have hin : e.bytesIn e.done + j < e.data.length := by
    have := bytesIn_le_length e (e.done + 1)
    simp only [Entry.burstBytes] at hj
    omega
  simp only [Entry.burstData, hk, List.getElem_take, List.getElem_drop]
  rw [List.getD_eq_getElem _ _ hin]

theorem storeBurst_fill {m : Memory} {e : Entry} {j : Nat} (hk : e.kind = .fill) (hj : j < e.burstBytes) :
    (storeBurst m e).read (e.burstStart + j) = e.pattern := by
  have hlen : e.burstData.length = e.burstBytes := by simp [Entry.burstData, hk]
  rw [storeBurst, read_writeRun_inside _ _ _ _ (hlen ▸ hj)]
  simp [Entry.burstData, hk]

theorem storeBurst_read {m : Memory} {e : Entry} (hk : e.kind = .read) : storeBurst m e = m := by
  simp [storeBurst, Entry.burstData, hk, Memory.writeRun]

/-- Settles O46: the store is the burst's alone, and what follows it leaves the contents as they are. -/
theorem burstsStoreOnlyTheirBytes : Obligations.BurstsStoreOnlyTheirBytes := by
  intro p pre e rest s hbus hfifo hin _ _ hdata
  have hoff := completeBurst_offEngine s p pre e rest
  refine ⟨_, exec_burstComplete hbus hfifo hin, ?_, ?_, ?_, ?_, hoff.regions, hoff.params, hoff.thermal, hoff.clock⟩ <;>
    rw [hoff.memory]
  · exact fun a ha => storeBurst_outside ha
  · exact fun hk => storeBurst_read hk
  · exact fun hk j hj => storeBurst_write hk (hdata hk) hj
  · exact fun hk j hj => storeBurst_fill hk hj

end Sys2Proof.Machine
end

section
/-! PROOFS. What the events of the Memory Sequencer, the Thermal Monitor and the Clock Supervisor can change, said once:
a relation between states that their primitive updates respect is respected by every such event. -/

namespace Sys2Proof.Machine

/-- A relation between states that holds across the primitive updates of the Memory Sequencer's events. -/
structure SeqClosed (R : State → State → Prop) : Prop where
  refl : ∀ s, R s s
  trans : ∀ {s t u}, R s t → R t u → R s u
  handReply : ∀ s r b c pl, R s (Machine.handReply s r b c pl)
  post : ∀ s p n, R s (Machine.post s p n)
  fifo : ∀ s p x, R s (s.setFifo p x)
  report : ∀ s p e, R s (Machine.report s p e)
  seq : ∀ s q, R s (s.setSeq q)
  memory : ∀ s m, R s { s with memory := m }
  hold : ∀ s x, R s { s with retentionHold := x }
  now : ∀ s x, R s { s with now := x }

namespace SeqClosed

variable {R : State → State → Prop} (h : SeqClosed R)
include h

theorem foldl {α : Type} (f : State → α → State) (hf : ∀ s x, R s (f s x)) :
    ∀ (l : List α) (s : State), R s (l.foldl f s)
  | [], s => h.refl s
  | x :: l, s => h.trans (hf s x) (foldl f hf l (f s x))

omit h in
theorem ite {s t u : State} {c : Prop} [Decidable c] (ht : R s t) (hu : R s u) : R s (if c then t else u) := by
  split
  · exact ht
  · exact hu

theorem memorySeq (s : State) (m : Memory) (q : Sequencer) : R s { s with memory := m, seq := q } :=
  h.trans (h.memory s m) (h.seq _ q)

theorem answer (s : State) (r : ReplyTo) (st : Status) : R s (Machine.answer s r st) := h.handReply _ _ _ _ _

theorem postAll (s : State) (n : Notice) : R s (Machine.postAll s n) := h.foldl _ (fun t p => h.post t p n) allPorts s

theorem postSupervisor (s : State) (n : Notice) : R s (Machine.postSupervisor s n) := h.post _ _ _

/-! ### The ends of transactions -/

theorem endEntry (s : State) (p : Port) (e : Entry) (pl : Option (List Byte)) (x : Bool) :
    R s (Machine.endEntry s p e pl x) := by
  have hquiet : ∀ t, R t (Machine.report (markQuiet t e) p e) := fun t =>
    h.trans (ite (h.seq t _) (h.refl t)) (h.report _ p e)
  unfold Machine.endEntry
  split
  · exact h.trans (h.handReply _ _ _ _ _) (hquiet _)
  · exact hquiet s

theorem stopStarted (s : State) (p : Port) (o : StopOrder) (sel : Entry → Bool) : R s (Machine.stopStarted s p o sel) := by
  unfold Machine.stopStarted
  split
  · exact h.refl s
  · split
    · exact ite (h.trans (h.fifo _ _ _) (h.endEntry _ _ _ _ _)) (h.fifo _ _ _)
    · exact h.refl s

theorem cancelFrom (p : Port) (hit : Entry → Bool) (pl : Option (List Byte)) :
    ∀ (l kept : List Entry) (s : State), R s (Machine.cancelFrom p hit pl kept l s)
  | [], _, s => h.refl s
  | e :: l, kept, s => by
    rw [Machine.cancelFrom]
    exact ite (h.trans (h.fifo _ _ _) (h.trans (h.endEntry _ _ _ _ _) (cancelFrom p hit pl l _ _)))
      (cancelFrom p hit pl l _ _)

theorem retainEntries (s : State) (p : Port) : R s (Machine.retainEntries s p) :=
  h.trans (h.stopStarted _ _ _ _) (h.cancelFrom _ _ _ _ _ _)

theorem retainAll (s : State) : R s (Machine.retainAll s) := h.foldl _ (fun t p => h.retainEntries t p) allPorts s

theorem advanceHead (s : State) (p : Port) (e : Entry) (rest : List Entry) : R s (Machine.advanceHead s p e rest) :=
  ite (h.trans (h.fifo _ _ _) (h.endEntry _ _ _ _ _))
    (ite (h.trans (h.fifo _ _ _) (h.endEntry _ _ _ _ _)) (h.fifo _ _ _))

/-! ### The arbiter and idle -/

theorem dropFrom (p : Port) : ∀ (l : List Entry) (s : State), R s (Machine.dropFrom p l s)
  | [], s => h.refl s
  | e :: l, s => by
    rw [Machine.dropFrom]
    exact ite (h.trans (h.fifo _ _ _) (h.trans (h.endEntry _ _ _ _ _) (dropFrom p l _))) (h.refl s)

theorem grant (s : State) (p : Port) : R s (Machine.grant s p) := by
  unfold Machine.grant
  split
  · exact h.refl s
  · exact h.trans (h.fifo _ _ _) (h.seq _ _)

theorem chooseAmong (s : State) : R s (Machine.chooseAmong s) := by
  unfold Machine.chooseAmong
  refine ite (h.refl s) (ite (h.trans (h.seq _ _) (h.seq _ _)) ?_)
  split
  · exact h.grant s _
  · exact ite (h.seq s _) (h.refl s)

theorem arbiter (s : State) : R s (Machine.arbiter s) :=
  ite (h.trans (h.foldl _ (fun t p => h.dropFrom p _ t) allPorts s) (h.chooseAmong _)) (h.refl s)

theorem reach (s : State) (d : Nat) : R s (s.reach d) := by
  have hstart : R s (startDue s) := ite (h.arbiter s) (h.refl s)
  exact h.trans (ite hstart (h.refl s)) (h.now _ _)

theorem reachTimer (s : State) (x : Option Timer) : R s (s.reachTimer x) := by
  unfold State.reachTimer
  split
  · exact h.reach s _
  · exact h.refl s

theorem endOp (s : State) : R s (Machine.endOp s) := h.trans (h.reachTimer s _) (h.seq _ _)

/-! ### The condition, init, retention and waking -/

theorem markSuspect (s : State) : R s (Machine.markSuspect s) := ite (h.refl s) (h.trans (h.seq _ _) (h.postAll _ _))

theorem judgeRange (s : State) (x : Range) : R s (Machine.judgeRange s x) :=
  ite (h.trans (h.memory s _) (h.markSuspect _)) (h.refl s)

theorem startInit (s : State) : R s (Machine.startInit s) := h.memorySeq s _ _

theorem wakeRetention (s : State) (x : Range) : R s (Machine.wakeRetention s x) := h.trans (h.hold s _) (h.seq _ _)

theorem restoreDram (s : State) : R s (Machine.restoreDram s) := by
  unfold Machine.restoreDram
  split
  · exact h.wakeRetention s _
  · exact ite (h.wakeRetention s _) (h.refl s)
  · exact h.startInit s
  all_goals exact h.refl s

theorem reachRetention (s : State) (x : Range) : R s (Machine.reachRetention s x) := by
  unfold Machine.reachRetention
  have hreached := h.trans (h.seq s { s.seq with
    dram := .retention x (s.seq.retEntry.getD .refLost), banks := allClosed, debt := 0, urgent := false
    bus := .free, opTimer := none, retEntry := none }) (h.judgeRange _ x)
  exact ite (h.trans hreached (h.restoreDram _)) hreached

theorem finalStep (s : State) (x : EntryPurpose) : R s (Machine.finalStep s x) := by
  unfold Machine.finalStep
  split
  · exact h.reachRetention s _
  · exact h.reachRetention s _
  · split <;> exact h.seq s _

theorem payDebt (s : State) (x : EntryPurpose) : R s (Machine.payDebt s x) :=
  ite (h.trans (h.seq _ _) (h.seq _ _)) (h.finalStep _ _)

theorem closeBanks (s : State) (x : EntryPurpose) : R s (Machine.closeBanks s x) := ite (h.seq s _) (h.payDebt s x)

theorem srExpiryIdle (s : State) : R s (Machine.srExpiryIdle s) :=
  ite (h.trans (h.seq _ _) (h.closeBanks _ _)) (h.seq s _)

theorem startIdle (s : State) : R s (Machine.startIdle s) := by
  unfold Machine.startIdle
  have hidle := h.seq s { s.seq with
    idle := true
    pdTimer := if s.params.pdIdle100ns = 0 then none else some (s.timer (s.params.pdIdle100ns * 100)) }
  dsimp only
  split
  · exact hidle
  · exact ite hidle (ite (h.trans hidle (h.srExpiryIdle _)) (h.trans hidle (h.seq _ _)))

theorem updateIdle (s : State) : R s (Machine.updateIdle s) :=
  ite (ite (h.refl s) (h.startIdle s)) (ite (h.seq s _) (h.refl s))

theorem actPdCause (s : State) (k : PdKind) (c : PdCause) : R s (Machine.actPdCause s k c) := by
  unfold Machine.actPdCause
  split
  · exact h.seq s _
  · exact h.seq s _
  · exact ite (h.seq s _) (h.refl s)

theorem pdCause (s : State) (c : PdCause) : R s (Machine.pdCause s c) := by
  unfold Machine.pdCause
  split
  · exact ite (ite (h.refl s) (h.seq s _)) (h.actPdCause s _ c)
  · exact h.refl s

theorem takeKept (s : State) (c : PdCause) : R s (Machine.takeKept s c) := by
  unfold Machine.takeKept
  split
  · exact ite (h.actPdCause s _ c) (h.refl s)
  · exact h.refl s

theorem wakeForHeads (s : State) : R s (Machine.wakeForHeads s) := by
  unfold Machine.wakeForHeads
  split
  · exact ite (h.seq s _) (ite (h.seq s _) (h.refl s))
  · exact ite (h.seq s _) (h.refl s)
  · exact ite (h.seq s _) (h.refl s)
  · exact h.refl s

theorem settle (s : State) : R s (Machine.settle s) :=
  h.trans (h.arbiter s) (h.trans (h.updateIdle _) (h.wakeForHeads _))

theorem bandChanged (s : State) : R s (Machine.bandChanged s) := by
  unfold Machine.bandChanged
  split
  case h_6 => exact h.judgeRange s _
  case h_7 => exact h.refl s
  all_goals exact h.seq s _

theorem retainPowerDown (s : State) : R s (Machine.retainPowerDown s) := by
  unfold Machine.retainPowerDown
  split
  · exact ite (h.seq s _) (h.refl s)
  · exact h.refl s

theorem enterRetention (s : State) (x : RetReason) : R s (Machine.enterRetention s x) :=
  h.trans (h.hold s true) (h.seq _ _)

theorem beginRetention (s : State) (x : RetReason) : R s (Machine.beginRetention s x) := by
  unfold Machine.beginRetention
  split
  · exact h.enterRetention s x
  · exact h.enterRetention s x
  · exact h.enterRetention s x
  · exact h.trans (h.enterRetention s x) (h.retainPowerDown _)
  · exact h.trans (h.enterRetention s x) (h.reachRetention _ _)
  · exact h.seq s _
  · exact h.seq s _
  · exact ite (h.seq s _) (h.refl s)
  · exact h.refl s

theorem failReinit (s : State) : R s (Machine.failReinit s) := by
  unfold Machine.failReinit
  split
  · exact h.trans (h.seq s _) (h.answer _ _ _)
  · exact h.refl s

/-! ### The events of the Memory Sequencer -/

theorem stay (s : State) : Leads R s (.next s) := .next (h.refl s)

omit h in
theorem leads_ite {s : State} {c : Prop} [Decidable c] {x y : Host.Outcome State Fault Refusal} (hx : Leads R s x)
    (hy : Leads R s y) : Leads R s (if c then x else y) := by
  split
  · exact hx
  · exact hy

theorem completeBurst (s : State) (p : Port) (pre : Bool) (e : Entry) (rest : List Entry) :
    R s (Machine.completeBurst s p pre e rest) :=
  h.trans (h.memorySeq s (storeBurst s.memory e) (prechargeAfter s.seq (e.blockAddr e.done) pre))
    (h.trans (h.advanceHead _ p e rest) (h.settle _))

theorem execBurstComplete (s : State) : Leads R s (Machine.execBurstComplete s) := by
  have hstart : R s (startDue s) := ite (h.arbiter s) (h.refl s)
  unfold Machine.execBurstComplete endBurst
  split
  · split
    · exact .next hstart
    · exact leads_ite (.fault _) (.next (h.trans hstart (h.completeBurst _ _ _ _ _)))
  · exact .next hstart
  · exact .next hstart

theorem execRefreshComplete (s : State) : Leads R s (Machine.execRefreshComplete s) := by
  refine leads_ite ?_ (h.stay s)
  have hend := h.trans (h.endOp s) (h.seq (Machine.endOp s) { (Machine.endOp s).seq with
    bus := .free, urgent := (Machine.endOp s).seq.urgent && decide (0 < (Machine.endOp s).seq.debt) })
  dsimp only
  split
  · exact .next (h.trans hend (h.trans (h.payDebt _ _) (h.settle _)))
  · exact .next (h.trans hend (h.startInit _))
  · exact .next (h.trans hend (h.settle _))

theorem overrun (s : State) : R s (Machine.overrun s) :=
  h.trans (h.memorySeq s _ _) (h.trans (h.postSupervisor _ (.fault .refreshOverrun)) (h.markSuspect _))

theorem raiseDebt (s : State) : R s (Machine.raiseDebt s) := ite (h.overrun s) (h.seq s _)

theorem tickDebt (s : State) : R s (Machine.tickDebt s) := by
  unfold Machine.tickDebt
  split
  · exact h.raiseDebt s
  · exact h.raiseDebt s
  · exact h.trans (h.raiseDebt s) (ite (h.pdCause _ _) (h.refl _))
  all_goals exact h.refl s

theorem execRefreshTick (s : State) : Leads R s (Machine.execRefreshTick s) :=
  .next (h.trans (h.reach s _) (h.trans (h.seq _ _) (h.trans (h.tickDebt _) (h.settle _))))

theorem execPdTimerExpiry (s : State) : Leads R s (Machine.execPdTimerExpiry s) := by
  unfold Machine.execPdTimerExpiry
  split
  · exact leads_ite (.next (h.trans (h.reach s _) (h.trans (h.seq _ _) (h.settle _)))) (h.stay s)
  · exact h.stay s

theorem execSrTimerExpiry (s : State) : Leads R s (Machine.execSrTimerExpiry s) := by
  unfold Machine.execSrTimerExpiry
  split
  · dsimp only
    split
    · exact .next (h.trans (h.reach s _) (h.trans (h.srExpiryIdle _) (h.settle _)))
    · exact .next (h.trans (h.reach s _) (h.trans (h.seq _ _) (h.pdCause _ _)))
    · exact h.stay s
  · exact h.stay s

theorem execPdResidencyEnd (s : State) : Leads R s (Machine.execPdResidencyEnd s) := by
  unfold Machine.execPdResidencyEnd
  split
  · have hend := fun x : Timer => h.trans (h.reach s x.deadline)
      (h.seq _ { (s.reach x.deadline).seq with residency := none, kept := [] })
    dsimp only
    split
    · exact .next (h.trans (hend _) (h.seq _ _))
    · exact .next (h.trans (hend _) (h.trans (h.foldl _ h.takeKept _ _) (h.trans (h.retainPowerDown _) (h.settle _))))
  · exact h.stay s

theorem execPdExitComplete (s : State) : Leads R s (Machine.execPdExitComplete s) := by
  unfold Machine.execPdExitComplete
  split
  · exact .next (h.trans (h.endOp s) (h.trans (h.seq _ _) (h.settle _)))
  · exact .next (h.trans (h.endOp s) (h.trans (h.closeBanks _ _) (h.settle _)))
  · exact .next (h.trans (h.endOp s) (h.startInit _))
  · exact h.stay s

theorem execBankCloseComplete (s : State) : Leads R s (Machine.execBankCloseComplete s) := by
  unfold Machine.execBankCloseComplete
  split
  · exact .next (h.trans (h.endOp s) (h.trans (h.seq _ _) (h.trans (h.payDebt _ _) (h.settle _))))
  · exact h.stay s

theorem wakeReady (s : State) : R s (Machine.wakeReady s) := h.trans (h.seq s _) (h.settle _)

theorem execWakeComplete (s : State) : Leads R s (Machine.execWakeComplete s) := by
  unfold Machine.execWakeComplete
  split
  · exact .next (h.trans (h.endOp s) (h.wakeReady _))
  · exact leads_ite (.next (h.trans (h.endOp s) (h.wakeReady _)))
      (.next (h.trans (h.endOp s) (h.trans (h.payDebt _ _) (h.settle _))))
  · exact .next (h.trans (h.endOp s) (h.trans (h.seq _ _) (h.wakeReady _)))
  · exact h.stay s

theorem execTrainingComplete (l0 l1 : Bool) (s : State) : Leads R s (Machine.execTrainingComplete l0 l1 s) := by
  have hsucceeds : R s (initSucceeds s) := by
    unfold initSucceeds
    have hready := h.trans (h.memory s s.memory.withPatterns) (h.seq _ { s.seq with
      dram := .ready, banks := allClosed, debt := 0, condition := .fresh, srRef := some s.now, reinit := none })
    split
    · exact h.trans hready (h.trans (h.postAll _ _) (h.trans (h.answer _ _ _) (h.settle _)))
    · exact h.trans hready (h.settle _)
  have hfails : R s (initFails s) := by
    unfold initFails
    have hfailed := h.trans (h.memory s s.memory.withPatterns) (h.trans
      (h.seq _ { s.seq with dram := .failed, reinit := none }) (h.postSupervisor _ (.fault .initFailed)))
    dsimp only
    split
    · exact h.trans hfailed (h.answer _ _ _)
    · exact hfailed
  exact leads_ite (leads_ite (.next hsucceeds) (.next hfails)) (h.stay s)

/-- Every event but the temperature's and the clock's. -/
theorem exec_sequencer {c : Instr} (hc : sequencerEvent c = true) (hthermal : ∀ r, c ≠ .thermalSample r)
    (hloss : c ≠ .lossWindowExpiry) (hedge : c ≠ .refEdge) (hlock : c ≠ .lockTimerExpiry) (s : State) :
    Leads R s (exec c s) := by
  cases c
  case burstComplete => exact h.execBurstComplete s
  case refreshComplete => exact h.execRefreshComplete s
  case refreshTick => exact h.execRefreshTick s
  case pdTimerExpiry => exact h.execPdTimerExpiry s
  case srTimerExpiry => exact h.execSrTimerExpiry s
  case pdResidencyEnd => exact h.execPdResidencyEnd s
  case pdExitComplete => exact h.execPdExitComplete s
  case bankCloseComplete => exact h.execBankCloseComplete s
  case wakeComplete => exact h.execWakeComplete s
  case retentionDrainEnd => exact leads_ite (.next (h.trans (h.closeBanks s _) (h.settle _))) (h.stay s)
  case resetHoldComplete => exact leads_ite (.next (h.seq s _)) (h.stay s)
  case modeSettingComplete => exact leads_ite (.next (h.seq s _)) (h.stay s)
  case trainingComplete l0 l1 => exact h.execTrainingComplete l0 l1 s
  case thermalSample r => exact absurd rfl (hthermal r)
  case lossWindowExpiry => exact absurd rfl hloss
  case refEdge => exact absurd rfl hedge
  case lockTimerExpiry => exact absurd rfl hlock
  all_goals cases hc

end SeqClosed

end Sys2Proof.Machine
end

section
/-! PROOFS. The end of a transaction at a burst's completion (R109 to R111). -/

namespace Sys2Proof.Machine

/-! ### The end of an entry -/

/-- The end reports only grow. -/
def KeepsReports (s t : State) : Prop := ∀ x ∈ s.reports, x ∈ t.reports

theorem settleClosed_keepsReports : SettleClosed KeepsReports where
  refl _ _ hx := hx
  trans h g x hx := g x (h x hx)
  fifo _ _ _ _ hx := hx
  report s p e x hx := by
    unfold report
    split
    · exact List.mem_append_left _ hx
    · exact hx
  seq _ _ _ _ hx := hx

/-- The end of an entry is reported with what its FIFO still holds on the region (R111). -/
theorem report_mem_endEntry {s : State} {p : Port} (e : Entry) (pl : Option (List Byte)) (x : Bool)
    (hrun : s.isRunning = true) :
    (⟨p, e.session, e.region, countOn s p e.region⟩ : EndReport) ∈ (endEntry s p e pl x).reports := by
  have hreport : ∀ t : State, t.isRunning = true → t.fifo p = s.fifo p →
      (⟨p, e.session, e.region, countOn s p e.region⟩ : EndReport) ∈ (report (markQuiet t e) p e).reports := by
    intro t ht hfifo
    have hrun' : (markQuiet t e).isRunning = true := by
      unfold markQuiet
      split <;> exact ht
    have hcount : countOn (markQuiet t e) p e.region = countOn s p e.region := by
      have : (markQuiet t e).fifo p = t.fifo p := by
        unfold markQuiet
        split <;> rfl
      rw [countOn, this, hfifo]
      rfl
    rw [report, if_pos hrun', hcount]
    exact List.mem_append_right _ (List.mem_singleton_self _)
  unfold endEntry
  split
  · exact hreport _ ((handReply_offPorts _ _ _ _ _).isRunning.trans hrun) (handReply_fifo _ _ _ _ _ p)
  · exact hreport s hrun rfl

theorem report_markQuiet_link (t : State) (p : Port) (e : Entry) (q : Port) :
    (report (markQuiet t e) p e).link q = t.link q := by
  unfold report markQuiet
  split <;> split <;> rfl

theorem endEntry_link_some (s : State) (p : Port) (e : Entry) (y : List Byte) (x : Bool) (q : Port) :
    (endEntry s p e (some y) x).link q = (handReply s (e.replyTo p) x false y).link q := report_markQuiet_link _ p e q

theorem endEntry_link_none (s : State) (p : Port) (e : Entry) (x : Bool) (q : Port) :
    (endEntry s p e none x).link q = s.link q := report_markQuiet_link s p e q

/-! ### The head after a burst -/

/-- The head with one more burst done, and none issued. -/
def Entry.afterBurst (e : Entry) : Entry := { e with done := e.done + 1, issued := false }

/-- The state in which a burst's completion finds its head: the bytes stored, the bus free. -/
def afterStore (s : State) (p : Port) (pre : Bool) (e : Entry) (rest : List Entry) : State :=
  ({ s with memory := storeBurst s.memory e, seq := prechargeAfter s.seq (e.blockAddr e.done) pre } : State).setFifo p rest

section
variable {s : State} {p : Port} {pre : Bool} {e : Entry} {rest : List Entry}

/-- The last burst ends the transaction (R109). -/
theorem completeBurst_last (hlast : e.done + 1 = e.bursts) :
    completeBurst s p pre e rest = settle (endEntry (afterStore s p pre e rest) p e.afterBurst e.afterBurst.donePayload
      (suspectFlag s e)) := by
  have hdone : e.afterBurst.bursts ≤ e.afterBurst.done := hlast.ge
  exact congrArg settle (if_pos hdone)

/-- A FILL with a stop order ends at the boundary (R110). -/
theorem completeBurst_cut {o : StopOrder} (hmore : e.done + 1 < e.bursts) (hk : e.kind = .fill) (ho : e.stop = some o) :
    completeBurst s p pre e rest
      = settle (endEntry (afterStore s p pre e rest) p e.afterBurst e.afterBurst.cutPayload false) := by
  have hdone : ¬ e.afterBurst.bursts ≤ e.afterBurst.done := Nat.not_le.mpr hmore
  have hstop : e.afterBurst.kind = .fill ∧ e.afterBurst.stop.isSome = true :=
    ⟨hk, (congrArg Option.isSome ho).trans rfl⟩
  exact congrArg settle ((if_neg hdone).trans (if_pos hstop))

theorem afterStore_link (q : Port) : (afterStore s p pre e rest).link q = s.link q := link_setFifo _ p rest q

theorem acceptsReply_afterStore (r : ReplyTo) : acceptsReply (afterStore s p pre e rest) r = acceptsReply s r := by
  have hsession : ∀ q, (afterStore s p pre e rest).session q = s.session q := session_setFifo _ p rest
  unfold acceptsReply State.presentSession
  rw [afterStore_link, hsession]

/-- The reply of the entry that ends, handed over and left by the settling. -/
theorem answered_endEntry {y : List Byte} {x : Bool} (hacc : acceptsReply s (e.replyTo p) = true) :
    ((settle (endEntry (afterStore s p pre e rest) p e.afterBurst (some y) x)).link p).entry e.tag = .free ∧
      ((settle (endEntry (afterStore s p pre e rest) p e.afterBurst (some y) x)).link p).cached e.tag
        = some (replyFrame (e.replyTo p) x y) := by
  have hans := answered_handReply (afterStore s p pre e rest) (e.replyTo p) x false y
    ((acceptsReply_afterStore _).trans hacc)
  have hlink : (settle (endEntry (afterStore s p pre e rest) p e.afterBurst (some y) x)).link p
      = (handReply (afterStore s p pre e rest) (e.replyTo p) x false y).link p :=
    ((settle_onlyWork _).link p).trans (endEntry_link_some _ _ _ _ _ _)
  rw [hlink]
  exact ⟨hans.freed, hans.cached⟩

/-- An end without a reply leaves the port's link. -/
theorem link_endEntry_silent {x : Bool} :
    (settle (endEntry (afterStore s p pre e rest) p e.afterBurst none x)).link p = s.link p :=
  ((settle_onlyWork _).link p).trans ((endEntry_link_none _ _ _ _ _).trans (afterStore_link p))

end

theorem donePayload_of_kind {e : Entry} (h : e.stop ≠ some .silent) :
    (e.kind = .read → e.donePayload = some (Status.ok.code :: e.readData)) ∧
      (e.kind = .write → e.donePayload = some okPayload) ∧
      (e.kind = .fill → e.donePayload = some (fillPayload e.length)) := by
  refine ⟨fun hk => ?_, fun hk => ?_, fun hk => ?_⟩ <;> rw [Entry.donePayload, if_neg h, hk]

theorem donePayload_isSome {e : Entry} (h : e.stop ≠ some .silent) : ∃ y, e.donePayload = some y := by
  obtain ⟨hread, hwrite, hfill⟩ := donePayload_of_kind h
  cases hk : e.kind
  · exact ⟨_, hread hk⟩
  · exact ⟨_, hwrite hk⟩
  · exact ⟨_, hfill hk⟩

theorem donePayload_silent {e : Entry} (h : e.stop = some .silent) : e.donePayload = none := if_pos h

/-- Settles O47: the end of the entry, by its kind and its stop order; the settling leaves links and reports. -/
theorem transactionsEndWithTheirReplies : Obligations.TransactionsEndWithTheirReplies := by
  refine ⟨fun p pre e rest s hbus hfifo hin hlast hrun => ?_, fun p pre e rest o s hbus hfifo hin hmore hk ho hacc => ?_⟩
  · have hexec := exec_burstComplete hbus hfifo hin
    rw [completeBurst_last hlast] at hexec
    refine ⟨_, hexec, ?_, fun hacc hstop => ?_, fun hstop => ?_⟩
    · have hmem := report_mem_endEntry (s := afterStore s p pre e rest) (p := p) e.afterBurst e.afterBurst.donePayload
        (suspectFlag s e) hrun
      rw [countOn, afterStore, fifo_setFifo_self] at hmem
      exact settleClosed_keepsReports.settle _ _ hmem
    · have hstop' : e.afterBurst.stop ≠ some .silent := hstop
      obtain ⟨hread, hwrite, hfill⟩ := donePayload_of_kind hstop'
      obtain ⟨y, hy⟩ := donePayload_isSome hstop'
      rw [hy]
      obtain ⟨hfree, hcached⟩ := answered_endEntry (pre := pre) (rest := rest) (x := suspectFlag s e) (y := y) hacc
      refine ⟨hfree, fun hk => ?_, fun hk => ?_, fun hk => ?_⟩ <;> rw [hcached, suspectFlag, hk]
      · rw [Option.some.inj (hy.symm.trans (hread hk))]
        rfl
      · rw [Option.some.inj (hy.symm.trans (hwrite hk))]
        rfl
      · rw [Option.some.inj (hy.symm.trans (hfill hk))]
        rfl
    · have hpayload : e.afterBurst.donePayload = none := donePayload_silent (e := e.afterBurst) hstop
      rw [hpayload, link_endEntry_silent]
  · have hexec := exec_burstComplete hbus hfifo hin
    rw [completeBurst_cut hmore hk ho] at hexec
    refine ⟨_, hexec, ?_⟩
    have hpayload : e.afterBurst.cutPayload = o.cause.map fun c => partialPayload (e.bytesIn (e.done + 1)) c := by
      have hstop : e.afterBurst.stop = some o := ho
      unfold Entry.cutPayload
      rw [hstop]
      rfl
    rw [hpayload]
    cases o
    case revoked => exact ⟨fun _ => (answered_endEntry hacc).2, nofun, nofun⟩
    case retaining => exact ⟨nofun, fun _ => (answered_endEntry hacc).2, nofun⟩
    case silent => exact ⟨nofun, nofun, fun _ => congrArg (Link.cached · e.tag) link_endEntry_silent⟩

end Sys2Proof.Machine
end

section
/-! PROOFS. What the events of the Memory Sequencer, the Thermal Monitor and the Clock Supervisor leave unchanged. -/

namespace Sys2Proof.Machine

/-! ### The events of the other two units -/

namespace SeqClosed

variable {R : State → State → Prop} (h : SeqClosed R)
include h

theorem exec_thermalSample (hthermal : ∀ s x, R s { s with thermal := x }) (r : Option Int) (s : State) :
    Leads R s (exec (.thermalSample r) s) := by
  have hannounce : ∀ t, R t (announceBand t) := fun t => by
    have hposted := h.postAll t (.thermal t.thermal.band t.thermal.reading)
    exact h.trans (ite (h.trans hposted (h.postSupervisor _ (.fault .sensor))) hposted)
      (h.trans (h.bandChanged _) (h.settle _))
  have htake : ∀ t, R t (takeSample t r) := fun t =>
    ite (hthermal t _) (h.trans (hthermal t _) (hannounce _))
  have hexec : exec (.thermalSample r) s = execThermalSample r s := rfl
  rw [hexec]
  refine leads_ite (h.stay s) ?_
  split
  · exact h.stay s
  · exact .next (h.trans (h.reach s _) (htake _))

theorem loseReference (s : State) : R s (Machine.loseReference s) := by
  have hstopped : R s (if entersRetention s.seq.dram then Machine.retainAll { s with retentionHold := true } else s) :=
    ite (h.trans (h.hold s true) (h.retainAll _)) (h.refl s)
  exact h.trans hstopped (h.trans (h.beginRetention _ .refLost) (h.trans (h.failReinit _) (h.trans (h.settle _)
    (h.postAll _ _))))

theorem restoreReference (hclock : ∀ s x, R s { s with clock := x }) (s : State) :
    R s (Machine.restoreReference s) := by
  have hposted : R s (Machine.postAll { s with clock := { s.clock with ref := .locked, lockTimer := none } } .refRestored) :=
    h.trans (hclock s _) (h.postAll _ _)
  exact h.trans hposted (h.trans (ite (h.restoreDram _) (h.refl _)) (h.settle _))

theorem exec_clockEvent (hclock : ∀ s x, R s { s with clock := x }) {c : Instr}
    (hc : c = .lossWindowExpiry ∨ c = .refEdge ∨ c = .lockTimerExpiry) (s : State) : Leads R s (exec c s) := by
  obtain rfl | rfl | rfl := hc
  · have hexec : exec .lossWindowExpiry s = execLossWindowExpiry s := rfl
    have hlost := h.trans (h.reach s (s.clock.lastEdge + 4000)) (hclock (s.reach (s.clock.lastEdge + 4000))
      { (s.reach (s.clock.lastEdge + 4000)).clock with ref := .lost, lockTimer := none })
    rw [hexec, execLossWindowExpiry]
    dsimp only
    split
    · exact h.stay s
    · exact .next hlost
    · exact .next (h.trans hlost (h.loseReference _))
  · have hexec : exec .refEdge s = execRefEdge s := rfl
    rw [hexec, execRefEdge]
    split <;> exact .next (hclock s _)
  · have hexec : exec .lockTimerExpiry s = execLockTimerExpiry s := rfl
    rw [hexec, execLockTimerExpiry]
    split
    · exact .next (h.trans (h.reach s _) (h.restoreReference hclock _))
    · exact h.stay s

/-- Every event of the three units, for a relation that also holds across a change of the temperature's or the clock's
record. -/
theorem exec_event {c : Instr} (hc : sequencerEvent c = true)
    (hthermal : (∃ r, c = .thermalSample r) → ∀ s x, R s { s with thermal := x })
    (hclock : c = .lossWindowExpiry ∨ c = .refEdge ∨ c = .lockTimerExpiry → ∀ s x, R s { s with clock := x })
    (s : State) : Leads R s (exec c s) := by
  by_cases ht : ∃ r, c = .thermalSample r
  · obtain ⟨r, rfl⟩ := ht
    exact h.exec_thermalSample (hthermal ⟨r, rfl⟩) r s
  · by_cases hk : c = .lossWindowExpiry ∨ c = .refEdge ∨ c = .lockTimerExpiry
    · exact h.exec_clockEvent (hclock hk) hk s
    · exact h.exec_sequencer hc (fun r hr => ht ⟨r, hr⟩) (fun hl => hk (.inl hl)) (fun hl => hk (.inr (.inl hl)))
        (fun hl => hk (.inr (.inr hl))) s

end SeqClosed

/-! ### What they keep -/

/-- Nothing but the moment, the tables by port, the hold, the end reports, the Sequencer, the contents, the temperature
and the clock differs; and of the ports no session, slot, receiver or bad-frame count does. -/
structure KeepsRest (s t : State) : Prop where
  rest : { t with
    now := s.now, ports := s.ports, retentionHold := s.retentionHold, reports := s.reports, seq := s.seq
    memory := s.memory, thermal := s.thermal, clock := s.clock } = s
  session : ∀ q, t.session q = s.session q
  slot : ∀ q, t.slot q = s.slot q
  rx : ∀ q, (t.link q).rx = (s.link q).rx
  badFrames : ∀ q, (t.link q).badFrames = (s.link q).badFrames

namespace KeepsRest

theorem refl (s : State) : KeepsRest s s := ⟨rfl, fun _ => rfl, fun _ => rfl, fun _ => rfl, fun _ => rfl⟩

theorem trans {s t u : State} (h : KeepsRest s t) (g : KeepsRest t u) : KeepsRest s u where
  rest := by
    have h1 := h.rest; have g1 := g.rest
    cases s; cases t; cases u
    simp only [State.mk.injEq] at h1 g1 ⊢
    simp_all
  session q := (g.session q).trans (h.session q)
  slot q := (g.slot q).trans (h.slot q)
  rx q := (g.rx q).trans (h.rx q)
  badFrames q := (g.badFrames q).trans (h.badFrames q)

/-- A change of the tables by port that only sends. -/
theorem of_sends {s t : State} (hoff : OffPorts s t) (hsession : ∀ q, t.session q = s.session q)
    (hslot : ∀ q, t.slot q = s.slot q) (hsends : ∀ q, SendsOnly (s.port q) (t.port q)) : KeepsRest s t where
  rest := by
    cases s; cases t
    simp only [OffPorts, State.mk.injEq] at hoff ⊢
    simp_all
  session := hsession
  slot := hslot
  rx q := (hsends q).rx
  badFrames q := (hsends q).badFrames

/-- A change outside the tables by port. -/
theorem of_rest {s t : State} (h : { t with
    now := s.now, retentionHold := s.retentionHold, reports := s.reports, seq := s.seq
    memory := s.memory, thermal := s.thermal, clock := s.clock } = s) : KeepsRest s t := by
  have hports : t.ports = s.ports := (congrArg State.ports h :)
  refine ⟨?_, session_congr hports, slot_congr hports, fun q => ?_, fun q => ?_⟩
  · cases s; cases t
    simp only [State.mk.injEq] at h ⊢
    simp_all
  all_goals rw [link_congr hports]

end KeepsRest

theorem post_slot (s : State) (p : Port) (n : Notice) (q : Port) : (post s p n).slot q = s.slot q := by
  unfold post
  split <;> simp

theorem seqClosed_keepsRest : SeqClosed KeepsRest where
  refl := .refl
  trans := .trans
  handReply s r b c pl := .of_sends (handReply_offPorts s r b c pl) (handReply_session s r b c pl)
    (handReply_slot s r b c pl) (handReply_sendsOnly s r b c pl)
  post s p n := .of_sends (post_offPorts s p n) (post_session s p n) (post_slot s p n) (post_sendsOnly s p n)
  fifo s p x := ⟨rfl, session_setFifo s p x, slot_setFifo s p x, fun q => by rw [link_setFifo],
    fun q => by rw [link_setFifo]⟩
  report s p e := by
    unfold report
    split
    · exact .of_rest rfl
    · exact .refl s
  seq _ _ := .of_rest rfl
  memory _ _ := .of_rest rfl
  hold _ _ := .of_rest rfl
  now _ _ := .of_rest rfl

theorem seqClosed_thermal : SeqClosed fun s t => t.thermal = s.thermal where
  refl _ := rfl
  trans h g := g.trans h
  handReply s r b c pl := (handReply_offPorts s r b c pl).thermal
  post s p n := (post_offPorts s p n).thermal
  fifo _ _ _ := rfl
  report s p e := by
    unfold report
    split <;> rfl
  seq _ _ := rfl
  memory _ _ := rfl
  hold _ _ := rfl
  now _ _ := rfl

theorem seqClosed_clock : SeqClosed fun s t => t.clock = s.clock where
  refl _ := rfl
  trans h g := g.trans h
  handReply s r b c pl := (handReply_offPorts s r b c pl).clock
  post s p n := (post_offPorts s p n).clock
  fifo _ _ _ := rfl
  report s p e := by
    unfold report
    split <;> rfl
  seq _ _ := rfl
  memory _ _ := rfl
  hold _ _ := rfl
  now _ _ := rfl

/-! ### The DRAM's contents (logs 9 to 11) -/

/-- A change of the contents is accounted for: the condition is SUSPECT, or an init has begun. -/
def Accounts (s t : State) : Prop :=
  t.memory = s.memory ∨ t.seq.condition = .suspect ∨ ∃ x, t.seq.dram = .initializing x

/-- What leaves the contents and the condition, and an init in its course. -/
structure Calm (s t : State) : Prop where
  memory : t.memory = s.memory
  condition : t.seq.condition = s.seq.condition
  init : ∀ x, s.seq.dram = .initializing x → t.seq.dram = .initializing x

theorem Accounts.refl (s : State) : Accounts s s := .inl rfl

theorem Accounts.of_eq {s t : State} (h : t.memory = s.memory) : Accounts s t := .inl h

theorem Accounts.after {s t u : State} (g : Accounts t u) (h : t.memory = s.memory) : Accounts s u :=
  g.imp_left fun hm => hm.trans h

theorem Accounts.calm {s t u : State} (h : Accounts s t) (g : Calm t u) : Accounts s u := by
  obtain hm | hc | ⟨x, hd⟩ := h
  · exact .inl (g.memory.trans hm)
  · exact .inr (.inl (g.condition.trans hc))
  · exact .inr (.inr ⟨x, g.init x hd⟩)

theorem Calm.trans {s t u : State} (h : Calm s t) (g : Calm t u) : Calm s u :=
  ⟨g.memory.trans h.memory, g.condition.trans h.condition, fun x hx => g.init x (h.init x hx)⟩

theorem OffPorts.calm {s t : State} (h : OffPorts s t) : Calm s t :=
  ⟨h.memory, congrArg Sequencer.condition h.seq, fun _ hx => (congrArg Sequencer.dram h.seq).trans hx⟩

theorem wakeForHeads_of_init {s : State} {x : InitStep} (h : s.seq.dram = .initializing x) : wakeForHeads s = s := by
  simp only [wakeForHeads, h]

/-- During init the end of an event at the Sequencer can end idle, and no more. -/
theorem settle_dram_of_init {s : State} {x : InitStep} (h : s.seq.dram = .initializing x) :
    (settle s).seq.dram = .initializing x := by
  have hready : s.seq.dram ≠ .ready := by simp [h]
  have hidle := (updateIdle_active (idleNow_eq_false_of_dram hready)).2.2.1
  rw [settle, arbiter_of_not_ready hready, wakeForHeads_of_init (hidle.trans h), hidle, h]

theorem settle_calm (s : State) : Calm s (settle s) where
  memory := (settle_onlyWork s).offEngine.memory
  condition := congrArg Prod.fst (settle_onlyWork s).standing
  init _ hx := settle_dram_of_init hx

theorem markSuspect_condition (s : State) : (markSuspect s).seq.condition = .suspect := by
  unfold markSuspect
  split
  · next h => exact h
  · rw [(postAll_offPorts _ _).seq]
    rfl

/-- A judgement beyond range makes the condition SUSPECT (R158). -/
theorem judgeRange_accounts (s : State) (x : Range) : Accounts s (judgeRange s x) := by
  unfold judgeRange
  split
  · exact .inr (.inl (markSuspect_condition _))
  · exact .refl s

/-- A restoration wakes the DRAM, or begins init (R168). -/
theorem restoreDram_accounts (s : State) : Accounts s (restoreDram s) ∧ (restoreDram s).seq.condition = s.seq.condition := by
  unfold restoreDram
  split
  · exact ⟨.of_eq rfl, rfl⟩
  · split
    · exact ⟨.of_eq rfl, rfl⟩
    · exact ⟨.refl s, rfl⟩
  · exact ⟨.inr (.inr ⟨_, rfl⟩), rfl⟩
  all_goals exact ⟨.refl s, rfl⟩

theorem reachRetention_accounts (s : State) (x : Range) : Accounts s (reachRetention s x) := by
  unfold reachRetention
  have hjudged := (judgeRange_accounts (s.setSeq { s.seq with
    dram := .retention x (s.seq.retEntry.getD .refLost), banks := allClosed, debt := 0, urgent := false
    bus := .free, opTimer := none, retEntry := none }) x).after (s := s) rfl
  have hdram : ∀ y, (judgeRange (s.setSeq { s.seq with
      dram := .retention x (s.seq.retEntry.getD .refLost), banks := allClosed, debt := 0, urgent := false
      bus := .free, opTimer := none, retEntry := none }) x).seq.dram ≠ .initializing y := by
    intro y
    rw [State.core_dram (judgeRange_core _ x)]
    simp
  dsimp only
  split
  · obtain ⟨hrestored, hcond⟩ := restoreDram_accounts (judgeRange (s.setSeq { s.seq with
      dram := .retention x (s.seq.retEntry.getD .refLost), banks := allClosed, debt := 0, urgent := false
      bus := .free, opTimer := none, retEntry := none }) x)
    obtain hm | hc | ⟨y, hd⟩ := hjudged
    · exact hrestored.after hm
    · exact .inr (.inl (hcond.trans hc))
    · exact absurd hd (hdram y)
  · exact hjudged

theorem finalStep_accounts (s : State) (x : EntryPurpose) : Accounts s (finalStep s x) := by
  unfold finalStep
  split
  · exact reachRetention_accounts s _
  · exact reachRetention_accounts s _
  · split <;> exact .of_eq rfl

theorem payDebt_accounts (s : State) (x : EntryPurpose) : Accounts s (payDebt s x) := by
  unfold payDebt
  split
  · exact .of_eq rfl
  · exact finalStep_accounts s x

theorem closeBanks_accounts (s : State) (x : EntryPurpose) : Accounts s (closeBanks s x) := by
  unfold closeBanks
  split
  · exact .of_eq rfl
  · exact payDebt_accounts s x

theorem srExpiryIdle_accounts (s : State) : Accounts s (srExpiryIdle s) := by
  unfold srExpiryIdle
  split
  · exact (closeBanks_accounts _ _).after rfl
  · exact .of_eq rfl

theorem endOp_memory (s : State) : (endOp s).memory = s.memory := by
  have hreach : ∀ x, (s.reachTimer x).memory = s.memory := fun x => by
    cases x
    · rfl
    · exact reach_memory s _
  exact hreach s.seq.opTimer

/-- A cause to leave power-down changes the Sequencer's work, and nothing during init (R139). -/
theorem pdCause_calm (s : State) (c : PdCause) : Calm s (pdCause s c) where
  memory := by
    unfold pdCause actPdCause leavePowerDown beginWake
    repeat' split
    all_goals rfl
  condition := by
    unfold pdCause actPdCause leavePowerDown beginWake
    repeat' split
    all_goals rfl
  init x hx := by
    rw [pdCause_awake c (by simp [hx]), hx]

/-! ### The contents across each event -/

theorem raiseDebt_accounts (s : State) : Accounts s (raiseDebt s) := by
  unfold raiseDebt
  split
  · exact .inr (.inl (markSuspect_condition _))
  · exact .of_eq rfl

theorem tickDebt_accounts (s : State) : Accounts s (tickDebt s) := by
  unfold tickDebt
  split
  · exact raiseDebt_accounts s
  · exact raiseDebt_accounts s
  · unfold tickPowerDown
    split
    · exact (raiseDebt_accounts s).calm (pdCause_calm _ _)
    · exact raiseDebt_accounts s
  all_goals exact .refl s

theorem takeKept_memory (s : State) (c : PdCause) : (takeKept s c).memory = s.memory := by
  unfold takeKept actPdCause leavePowerDown beginWake
  repeat' split
  all_goals rfl

theorem foldl_takeKept_memory : ∀ (l : List PdCause) (s : State), (l.foldl takeKept s).memory = s.memory
  | [], _ => rfl
  | c :: l, s => (foldl_takeKept_memory l _).trans (takeKept_memory s c)

theorem retainPowerDown_memory (s : State) : (retainPowerDown s).memory = s.memory := by
  unfold retainPowerDown
  split
  · split <;> rfl
  · rfl

theorem bandChanged_accounts (s : State) : Accounts s (bandChanged s) := by
  unfold bandChanged
  split
  case h_6 => exact judgeRange_accounts s _
  case h_7 => exact .refl s
  all_goals exact .of_eq rfl

theorem beginRetention_accounts (s : State) (x : RetReason) : Accounts s (beginRetention s x) := by
  unfold beginRetention
  split
  case h_4 => exact .of_eq (retainPowerDown_memory _)
  case h_5 => exact (reachRetention_accounts _ _).after rfl
  case h_8 => split <;> exact .of_eq rfl
  all_goals exact .of_eq rfl

theorem failReinit_calm (s : State) : Calm s (failReinit s) := by
  unfold failReinit
  split
  · have hseq : Calm s (s.setSeq { s.seq with reinit := none }) := ⟨rfl, rfl, fun _ hx => hx⟩
    exact hseq.trans (answer_offPorts _ _ _).calm
  · exact (OffPorts.refl s).calm

/-- The settling after an event whose contents are accounted for. -/
theorem Accounts.settled {s t : State} (h : Accounts s t) : Accounts s (settle t) := h.calm (settle_calm t)

/-- No operation of the Engine or the Directory touches the contents. -/
theorem closed_memory : Closed fun s t => t.memory = s.memory where
  refl _ := rfl
  trans h g := g.trans h
  handReply s r b c pl := (handReply_offPorts s r b c pl).memory
  post s p n := (post_offPorts s p n).memory
  fifo _ _ _ := rfl
  slot _ _ _ := rfl
  reports _ _ := rfl
  region _ _ _ _ _ _ _ := rfl
  quiet _ _ := rfl

theorem execRefreshComplete_accounts (s : State) : Leads Accounts s (execRefreshComplete s) := by
  have hend := endOp_memory s
  unfold execRefreshComplete
  split
  · dsimp only
    split
    · exact .next (.settled (.after (payDebt_accounts _ _) hend))
    · exact .next (.inr (.inr ⟨_, rfl⟩))
    · exact .next (.settled (.of_eq hend))
  · exact .next (.refl s)

theorem execRefreshTick_accounts (s : State) : Leads Accounts s (execRefreshTick s) :=
  .next (.settled (.after (tickDebt_accounts _) (reach_memory s _)))

theorem execPdTimerExpiry_accounts (s : State) : Leads Accounts s (execPdTimerExpiry s) := by
  unfold execPdTimerExpiry
  split
  · split
    · exact .next (.settled (.of_eq (reach_memory s _)))
    · exact .next (.refl s)
  · exact .next (.refl s)

theorem execSrTimerExpiry_accounts (s : State) : Leads Accounts s (execSrTimerExpiry s) := by
  unfold execSrTimerExpiry
  split
  · dsimp only
    split
    · exact .next (.settled (.after (srExpiryIdle_accounts _) (reach_memory s _)))
    · refine .next (.calm ?_ (pdCause_calm _ _))
      exact .of_eq (reach_memory s _)
    · exact .next (.refl s)
  · exact .next (.refl s)

theorem execPdResidencyEnd_accounts (s : State) : Leads Accounts s (execPdResidencyEnd s) := by
  unfold execPdResidencyEnd
  split
  · dsimp only
    split
    · exact .next (.of_eq (reach_memory s _))
    · exact .next (.settled (.of_eq ((retainPowerDown_memory _).trans ((foldl_takeKept_memory _ _).trans
        (reach_memory s _)))))
  · exact .next (.refl s)

theorem execPdExitComplete_accounts (s : State) : Leads Accounts s (execPdExitComplete s) := by
  have hend := endOp_memory s
  unfold execPdExitComplete
  split
  · exact .next (.settled (.of_eq hend))
  · exact .next (.settled (.after (closeBanks_accounts _ _) hend))
  · exact .next (.inr (.inr ⟨_, rfl⟩))
  · exact .next (.refl s)

theorem execBankCloseComplete_accounts (s : State) : Leads Accounts s (execBankCloseComplete s) := by
  have hend := endOp_memory s
  unfold execBankCloseComplete
  split
  · exact .next (.settled (.after (payDebt_accounts _ _) hend))
  · exact .next (.refl s)

theorem wakeReady_accounts (s : State) : Accounts s (wakeReady s) := .settled (.of_eq rfl)

theorem execWakeComplete_accounts (s : State) : Leads Accounts s (execWakeComplete s) := by
  have hend := endOp_memory s
  unfold execWakeComplete
  split
  · exact .next (.after (wakeReady_accounts _) hend)
  · split
    · exact .next (.after (wakeReady_accounts _) hend)
    · exact .next (.settled (.after (payDebt_accounts _ _) hend))
  · exact .next (.after (wakeReady_accounts _) hend)
  · exact .next (.refl s)

theorem execThermalSample_accounts (r : Option Int) (s : State) : Leads Accounts s (execThermalSample r s) := by
  have htake : ∀ t, Accounts t (takeSample t r) := fun t => by
    unfold takeSample
    dsimp only
    split
    · exact .of_eq rfl
    · obtain ⟨u, hu, hannounce⟩ := announceBand_eq
        { t with thermal := ⟨validReading r, bandOfSample t.params t.thermal.band (validReading r), some (t.timer 1000000), true⟩ }
      rw [hannounce]
      exact .settled (.after (bandChanged_accounts u) hu.memory)
  unfold execThermalSample
  split
  · exact .next (.refl s)
  · split
    · exact .next (.refl s)
    · exact .next (.after (htake _) (reach_memory s _))

theorem loseReference_accounts (s : State) : Accounts s (loseReference s) := by
  unfold loseReference
  have hstopped : (if entersRetention s.seq.dram then retainAll { s with retentionHold := true } else s).memory
      = s.memory := by
    split
    · exact closed_memory.retainAll _
    · rfl
  exact .calm (.settled (.calm (.after (beginRetention_accounts _ .refLost) hstopped) (failReinit_calm _)))
    (postAll_offPorts _ _).calm

theorem restoreReference_accounts (s : State) : Accounts s (restoreReference s) := by
  have hposted : (postAll { s with clock := { s.clock with ref := .locked, lockTimer := none } } .refRestored).memory
      = s.memory := (postAll_offPorts _ _).memory
  unfold restoreReference
  dsimp only
  split
  · exact .settled (.after (restoreDram_accounts _).1 hposted)
  · exact .settled (.of_eq hposted)

/-- Every event but a burst's completion and the end of training accounts for a change of the contents. -/
theorem exec_accounts {c : Instr} (hc : sequencerEvent c = true) (hburst : c ≠ .burstComplete)
    (htraining : ∀ l0 l1, c ≠ .trainingComplete l0 l1) (s : State) : Leads Accounts s (exec c s) := by
  cases c
  case burstComplete => exact absurd rfl hburst
  case refreshComplete => exact execRefreshComplete_accounts s
  case refreshTick => exact execRefreshTick_accounts s
  case pdTimerExpiry => exact execPdTimerExpiry_accounts s
  case srTimerExpiry => exact execSrTimerExpiry_accounts s
  case pdResidencyEnd => exact execPdResidencyEnd_accounts s
  case pdExitComplete => exact execPdExitComplete_accounts s
  case bankCloseComplete => exact execBankCloseComplete_accounts s
  case wakeComplete => exact execWakeComplete_accounts s
  case retentionDrainEnd =>
    exact SeqClosed.leads_ite (.next (.settled (closeBanks_accounts s _))) (.next (.refl s))
  case resetHoldComplete => exact SeqClosed.leads_ite (.next (.of_eq rfl)) (.next (.refl s))
  case modeSettingComplete => exact SeqClosed.leads_ite (.next (.of_eq rfl)) (.next (.refl s))
  case trainingComplete l0 l1 => exact absurd rfl (htraining l0 l1)
  case thermalSample r => exact execThermalSample_accounts r s
  case lossWindowExpiry =>
    have hexec : exec .lossWindowExpiry s = execLossWindowExpiry s := rfl
    have hreach := reach_memory s (s.clock.lastEdge + 4000)
    rw [hexec, execLossWindowExpiry]
    dsimp only
    split
    · exact .next (.refl s)
    · exact .next (.of_eq hreach)
    · exact .next (.after (loseReference_accounts _) hreach)
  case refEdge =>
    have hexec : exec .refEdge s = execRefEdge s := rfl
    rw [hexec, execRefEdge]
    split <;> exact .next (.of_eq rfl)
  case lockTimerExpiry =>
    have hexec : exec .lockTimerExpiry s = execLockTimerExpiry s := rfl
    rw [hexec, execLockTimerExpiry]
    split
    · exact .next (.after (restoreReference_accounts _) (reach_memory s _))
    · exact .next (.refl s)
  all_goals cases hc

/-- Settles O11: each kept part is a relation that the events' primitive updates respect; a change of the contents
comes with a SUSPECT condition or an init. -/
theorem sequencerEventsKeepTheRest : Obligations.SequencerEventsKeepTheRest := by
  intro c s t hc hexec
  have hkeeps : KeepsRest s t := by
    refine seqClosed_keepsRest.exec_event hc (fun _ u x => ?_) (fun _ u x => ?_) s t hexec <;> exact .of_rest rfl
  have hrest := hkeeps.rest
  refine ⟨(congrArg State.pending hrest :), (congrArg State.resetPin hrest :), (congrArg State.straps hrest :),
    (congrArg State.restart hrest :), (congrArg State.supervisor hrest :), (congrArg State.bootCause hrest :),
    (congrArg State.params hrest :), (congrArg State.regions hrest :),
    fun p => ⟨hkeeps.session p, hkeeps.slot p, hkeeps.rx p, hkeeps.badFrames p⟩, fun hthermal => ?_,
    fun hloss hedge hlock => ?_, fun hburst htraining hsuspect hinit => ?_⟩
  · exact seqClosed_thermal.exec_event hc (fun ⟨r, hr⟩ => absurd hr (hthermal r)) (fun _ _ _ => rfl) s t hexec
  · refine seqClosed_clock.exec_event hc (fun _ _ _ => rfl) (fun hclock => ?_) s t hexec
    obtain h | h | h := hclock
    · exact absurd h hloss
    · exact absurd h hedge
    · exact absurd h hlock
  · obtain hm | hs | ⟨x, hd⟩ := exec_accounts hc hburst htraining s t hexec
    · exact hm
    · exact absurd hs hsuspect
    · exact absurd hd (hinit x)

end Sys2Proof.Machine
end

section
/-! PROOFS. The temperature (R151 to R154) and the clock (R160, R162, R168). -/

namespace Sys2Proof.Machine

/-! ### THERMAL_SAMPLE -/

theorem exec_thermalSample_taken {s : State} {x : Timer} (r : Option Int) (hpin : s.resetPin = .high)
    (hx : s.thermal.sampleTimer = some x) :
    exec (.thermalSample r) s = .next (takeSample (s.reach x.deadline) r) := by
  have hexec : exec (.thermalSample r) s = execThermalSample r s := rfl
  rw [hexec, execThermalSample, if_neg (by simp [hpin]), hx]

theorem announceBand_thermal (s : State) : (announceBand s).thermal = s.thermal := by
  obtain ⟨u, hu, hannounce⟩ := announceBand_eq s
  rw [hannounce]
  exact (seqClosed_thermal.settle _).trans ((seqClosed_thermal.bandChanged u).trans hu.thermal)

theorem takeSample_thermal (s : State) (r : Option Int) : (takeSample s r).thermal =
    ⟨validReading r, bandOfSample s.params s.thermal.band (validReading r), some (s.timer 1000000), true⟩ := by
  unfold takeSample
  dsimp only
  split
  · rfl
  · exact announceBand_thermal _

/-- What a sample leaves in the Thermal Monitor. -/
theorem sampled_thermal (s : State) (x : Timer) (r : Option Int) : (takeSample (s.reach x.deadline) r).thermal =
    ⟨validReading r, bandOfSample s.params s.thermal.band (validReading r),
      some ⟨1000000, max s.now x.deadline + 1000000⟩, true⟩ := by
  rw [takeSample_thermal, reach_params, reach_thermal]
  rfl

theorem validReading_inRange {r : Int} (hlo : -40 ≤ r) (hhi : r ≤ 150) : validReading (some r) = some r :=
  if_pos ⟨hlo, hhi⟩

theorem validReading_outOfRange {r : Option Int} (h : ∀ x, r = some x → x < -40 ∨ 150 < x) : validReading r = none := by
  cases r with
  | none => rfl
  | some x =>
    have := h x rfl
    exact if_neg (by omega)

/-- The band of a sample within the sensor's range. -/
theorem sampled_band (s : State) (x : Timer) {r : Int} (hlo : -40 ≤ r) (hhi : r ≤ 150) :
    (takeSample (s.reach x.deadline) (some r)).thermal.band
      = bandAfter s.params.warmThreshold s.params.hotThreshold s.thermal.band r := by
  rw [sampled_thermal, validReading_inRange hlo hhi]
  rfl

theorem bandFresh_eq {w h t : Int} : (h ≤ t → bandFresh w h t = .hot) ∧
    (w ≤ t → t < h → bandFresh w h t = .warm) ∧ (t < w → t < h → bandFresh w h t = .normal) := by
  unfold bandFresh
  refine ⟨fun hhot => if_pos hhot, fun hwarm hnot => ?_, fun hnormal hnot => ?_⟩
  · rw [if_neg (by omega), if_pos hwarm]
  · rw [if_neg (by omega), if_neg (by omega)]

/-- The hysteresis of 3 °C on the way down from WARM (R152). -/
theorem bandAfter_warm {w h t : Int} : (h ≤ t → bandAfter w h .warm t = .hot) ∧
    (t ≤ w - 3 → t < h → bandAfter w h .warm t = .normal) ∧
    (w - 3 < t → t < h → bandAfter w h .warm t = .warm) := by
  unfold bandAfter
  refine ⟨fun hhot => if_pos hhot, fun hnormal hnot => ?_, fun hwarm hnot => ?_⟩
  · exact (if_neg (by omega)).trans (if_pos hnormal)
  · exact (if_neg (by omega)).trans (if_neg (by omega))

/-- The hysteresis of 3 °C on the way down from HOT (R152). -/
theorem bandAfter_hot {w h t : Int} : (t ≤ w - 3 → bandAfter w h .hot t = .normal) ∧
    (w - 3 < t → t ≤ h - 3 → bandAfter w h .hot t = .warm) ∧
    (w - 3 < t → h - 3 < t → bandAfter w h .hot t = .hot) := by
  unfold bandAfter
  refine ⟨fun hnormal => if_pos hnormal, fun hwarm hnot => ?_, fun hwarm hhot => ?_⟩
  · exact (if_neg (by omega)).trans (if_pos hnot)
  · exact (if_neg (by omega)).trans (if_neg (by omega))

/-- Settles O58: the sample's record, and the band by the thresholds from each band. -/
theorem bandsFollowTheThresholds : Obligations.BandsFollowTheThresholds := by
  intro s x reading hpin hx hlo hhi
  refine ⟨_, exec_thermalSample_taken _ hpin hx, ?_, fun hband => ?_, fun hband => ?_, fun hband => ?_⟩
  · rw [sampled_thermal, validReading_inRange hlo hhi]
  all_goals rw [sampled_band s x hlo hhi, hband]
  · exact bandFresh_eq
  · exact bandAfter_warm
  · exact bandAfter_hot

theorem markSuspect_now (s : State) : (markSuspect s).now = s.now := by
  unfold markSuspect
  split
  · rfl
  · exact (postAll_offPorts _ _).now

theorem judgeRange_now (s : State) (x : Range) : (judgeRange s x).now = s.now := by
  unfold judgeRange
  split
  · exact markSuspect_now _
  · rfl

theorem bandChanged_now (s : State) : (bandChanged s).now = s.now := by
  unfold bandChanged
  split
  case h_6 => exact judgeRange_now s _
  all_goals rfl

theorem takeSample_now (s : State) (r : Option Int) : (takeSample s r).now = s.now := by
  unfold takeSample
  dsimp only
  split
  · rfl
  · obtain ⟨u, hu, hannounce⟩ := announceBand_eq
      { s with thermal := ⟨validReading r, bandOfSample s.params s.thermal.band (validReading r), some (s.timer 1000000), true⟩ }
    rw [hannounce]
    exact (settle_onlyWork _).offEngine.now.trans ((bandChanged_now u).trans hu.now)

/-- Settles O59: the fresh band from UNKNOWN; an invalid sample leaves none. -/
theorem sensorFaultsMakeTheBandUnknown : Obligations.SensorFaultsMakeTheBandUnknown := by
  refine ⟨fun s result hpin => ?_, fun s x hpin hx => ⟨fun reading hband hlo hhi => ?_, fun result hbad => ?_⟩⟩
  · have hexec : exec (.thermalSample result) s = execThermalSample result s := rfl
    rw [hexec, execThermalSample, if_pos hpin]
  · refine ⟨_, exec_thermalSample_taken _ hpin hx, ?_, ?_⟩
    · rw [sampled_thermal, validReading_inRange hlo hhi]
    · rw [sampled_band s x hlo hhi, hband]
      exact bandFresh_eq
  · have hexec := exec_thermalSample_taken result hpin hx
    have hkeeps : KeepsRest s (takeSample (s.reach x.deadline) result) :=
      seqClosed_keepsRest.exec_thermalSample (fun _ _ => .of_rest rfl) result s _ hexec
    refine ⟨_, hexec, ?_, (takeSample_now _ _).trans rfl, (congrArg State.regions hkeeps.rest :),
      (congrArg State.params hkeeps.rest :)⟩
    rw [sampled_thermal, validReading_outOfRange hbad]
    rfl

/-! ### A DRAM that no head wakes -/

/-- A DRAM state in which the end of an event starts nothing: neither READY nor one that a head wakes or turns. -/
def DramState.still : DramState → Bool
  | .uninitialized | .initializing _ | .failed | .enteringSr _ _ | .retention _ _ | .waking .ready _ => true
  | .ready | .powerDown _ | .selfRefresh _ | .waking .selfRefresh _ => false

theorem wakeForHeads_still {s : State} (h : s.seq.dram.still = true) : wakeForHeads s = s := by
  unfold wakeForHeads
  split
  · next hd => simp [hd, DramState.still] at h
  · next hd => simp [hd, DramState.still] at h
  · next hd => simp [hd, DramState.still] at h
  · rfl

/-- In such a state the end of an event ends idle, and that is all. -/
theorem settle_still {s : State} (h : s.seq.dram.still = true) : settle s =
    s.setSeq { s.seq with
      idle := false
      pdTimer := if s.seq.idle then none else s.seq.pdTimer
      srTimer := if s.seq.idle then none else s.seq.srTimer } := by
  have hready : s.seq.dram ≠ .ready := by
    intro hd
    rw [hd] at h
    cases h
  have hnow := idleNow_eq_false_of_dram hready
  rw [settle, arbiter_of_not_ready hready]
  cases hidle : s.seq.idle
  · rw [updateIdle_stays hnow hidle, wakeForHeads_still h]
    have hsame : s.seq = { s.seq with idle := false } := by rw [← hidle]
    exact congrArg (fun q => ({ s with seq := q } : State)) hsame
  · rw [updateIdle_ends hnow hidle]
    exact wakeForHeads_still h

/-! ### REF_EDGE and LOCK_TIMER_EXPIRY -/

theorem exec_lockTimerExpiry {s : State} {x : Timer} (href : s.clock.ref = .locking) (hx : s.clock.lockTimer = some x) :
    exec .lockTimerExpiry s = .next (restoreReference (s.reach x.deadline)) := by
  have hexec : exec .lockTimerExpiry s = execLockTimerExpiry s := rfl
  rw [hexec, execLockTimerExpiry, href, hx]

theorem post_notRunning {s : State} (p : Port) (n : Notice) (h : s.isRunning = false) : post s p n = s := by
  rw [post, if_neg (by simp [h])]

theorem postAll_notRunning {s : State} (n : Notice) (h : s.isRunning = false) : postAll s n = s := by
  simp [postAll, allPorts, post_notRunning _ n h]

/-- A notice posted to a port that is transmitting joins the queue, and is not sent (R15, R176). -/
theorem post_transmitting {s : State} {p : Port} (n : Notice) (hrun : s.isRunning = true)
    (hlive : (s.session p).live = true) (htx : (s.link p).tx ≠ none) :
    (post s p n).notices p = (s.notices p).enqueue n := by
  obtain ⟨x, hx⟩ := Option.ne_none_iff_exists'.mp htx
  have hbusy : arbitrate (s.setNotices p ((s.notices p).enqueue n)) p = s.setNotices p ((s.notices p).enqueue n) := by
    unfold arbitrate
    split
    · rw [link_setNotices, hx]
    · rfl
  rw [post, if_pos (by simp [hrun, hlive]), hbusy, notices_setNotices_self]

theorem foldl_post_port (n : Notice) {p : Port} : ∀ (l : List Port) (s : State), p ∉ l →
    (l.foldl (fun t q => post t q n) s).port p = s.port p
  | [], _, _ => rfl
  | q :: l, s, hp => by
    obtain ⟨hq, hl⟩ := not_or.mp (mt List.mem_cons.mpr hp)
    exact (foldl_post_port n l _ hl).trans (post_port_ne s q n hq)

theorem allPorts_split (p : Port) : ∃ before after, allPorts = before ++ p :: after ∧ p ∉ before ∧ p ∉ after := by
  cases p
  · exact ⟨[], [.b, .c, .d], by decide⟩
  · exact ⟨[.a], [.c, .d], by decide⟩
  · exact ⟨[.a, .b], [.d], by decide⟩
  · exact ⟨[.a, .b, .c], [], by decide⟩

/-- A notice posted to every port joins the queue of each that has a session and is transmitting. -/
theorem postAll_transmitting {s : State} {p : Port} (n : Notice) (hrun : s.isRunning = true)
    (hlive : (s.session p).live = true) (htx : (s.link p).tx ≠ none) :
    (postAll s n).notices p = (s.notices p).enqueue n := by
  obtain ⟨before, after, hsplit, hbefore, hafter⟩ := allPorts_split p
  have hport := foldl_post_port n before s hbefore
  have hlink : (before.foldl (fun t q => post t q n) s).link p = s.link p := congrArg PortState.link hport
  have hsession : (before.foldl (fun t q => post t q n) s).session p = s.session p := congrArg PortState.session hport
  have hnotices : (before.foldl (fun t q => post t q n) s).notices p = s.notices p := congrArg PortState.notices hport
  have hrun' : (before.foldl (fun t q => post t q n) s).isRunning = true :=
    (OffPorts.foldl _ (fun t q => post_offPorts t q n) before s).isRunning.trans hrun
  unfold postAll
  rw [hsplit, List.foldl_append, List.foldl_cons]
  calc State.notices _ p
      = (post (before.foldl (fun t q => post t q n) s) p n).notices p :=
        congrArg PortState.notices (foldl_post_port n after _ hafter)
    _ = (s.notices p).enqueue n := by
        rw [post_transmitting n hrun' (by rwa [hsession]) (by rwa [hlink]), hnotices]

/-- A notice of no kind that coalesces joins a queue with room (R178). -/
theorem enqueue_refRestored {q : Notices} (h : q.queue.length < 16) :
    (q.enqueue .refRestored).queue = q.queue ++ [.refRestored] := by
  simp [Notices.enqueue, h]

theorem restoreDram_ports (s : State) : (restoreDram s).ports = s.ports := by
  unfold restoreDram
  repeat' split
  all_goals rfl

/-- The rates of R2, by the straps. -/
theorem transmitKbits_locked {t : State} {x : Straps} (hx : t.straps = x) (h : t.clock.ref = .locked) :
    transmitKbits t = (match x.rateFirst, x.rateSecond with
      | false, false => 6000
      | true, false => 12000
      | false, true => 25000
      | true, true => 6000) := by
  subst hx
  exact if_pos h

/-- The state in which a restoration finds the Sequencer: the time of the lock, LOCKED, REF_RESTORED posted. -/
def lockedAt (s : State) (d : Nat) : State :=
  postAll { s.reach d with clock := { (s.reach d).clock with ref := .locked, lockTimer := none } } .refRestored

theorem restoreReference_eq (s : State) (d : Nat) : restoreReference (s.reach d) =
    settle (if s.isRunning then restoreDram (lockedAt s d) else lockedAt s d) := by
  have hrun : (lockedAt s d).isRunning = s.isRunning := (postAll_offPorts _ _).isRunning.trans (reach_isRunning s d)
  unfold restoreReference
  rw [← hrun]
  rfl

theorem lockedAt_offPorts (s : State) (d : Nat) : OffPorts
    { s.reach d with clock := { (s.reach d).clock with ref := .locked, lockTimer := none } } (lockedAt s d) :=
  postAll_offPorts _ _

section
variable (s : State) (d : Nat)
theorem lockedAt_dram : (lockedAt s d).seq.dram = s.seq.dram :=
  (congrArg Sequencer.dram (lockedAt_offPorts s d).seq).trans (reach_dram s d)
theorem lockedAt_params : (lockedAt s d).params = s.params := (lockedAt_offPorts s d).params.trans (reach_params s d)
theorem lockedAt_memory : (lockedAt s d).memory = s.memory := (lockedAt_offPorts s d).memory.trans (reach_memory s d)
theorem lockedAt_hold : (lockedAt s d).retentionHold = s.retentionHold :=
  (lockedAt_offPorts s d).retentionHold.trans (reach_retentionHold s d)
theorem lockedAt_clock : (lockedAt s d).clock = ⟨.locked, none, s.clock.lastEdge⟩ := by
  rw [(lockedAt_offPorts s d).clock, reach_clock]
end

theorem lockedAt_notices {s : State} {p : Port} (d : Nat) (hrun : s.isRunning = true) (hlive : (s.session p).live = true)
    (htx : (s.link p).tx ≠ none) : (lockedAt s d).notices p = (s.notices p).enqueue .refRestored := by
  have hposted := postAll_transmitting (p := p)
    (s := { s.reach d with clock := { (s.reach d).clock with ref := .locked, lockTimer := none } }) .refRestored
    ((reach_isRunning s d).trans hrun) ((congrArg Session.live (reach_session s d p)).trans hlive)
    (fun hnone => htx ((congrArg Link.tx (reach_link s d p)).symm.trans hnone))
  exact hposted.trans (congrArg (Notices.enqueue · .refRestored) (reach_notices s d p))

theorem OffEngine.retentionHold {s t : State} (h : OffEngine s t) : t.retentionHold = s.retentionHold :=
  (congrArg State.retentionHold h :)
theorem OffEngine.straps {s t : State} (h : OffEngine s t) : t.straps = s.straps := (congrArg State.straps h :)

/-- A restoration changes the hold, the Sequencer and the contents alone. -/
theorem restoreDram_rest (s : State) :
    { restoreDram s with retentionHold := s.retentionHold, seq := s.seq, memory := s.memory } = s := by
  unfold restoreDram
  repeat' split
  all_goals rfl

/-- What every expiry of the lock timer leaves. -/
theorem lockTimerExpiry_leaves {s : State} {x : Timer} (href : s.clock.ref = .locking)
    (hx : s.clock.lockTimer = some x) :
    ∃ t, exec .lockTimerExpiry s = .next t ∧
      t = settle (if s.isRunning then restoreDram (lockedAt s x.deadline) else lockedAt s x.deadline) ∧
      t.clock = ⟨.locked, none, s.clock.lastEdge⟩ ∧ t.now = max s.now x.deadline ∧ t.restart = s.restart ∧
      t.regions = s.regions ∧ t.params = s.params ∧
      transmitKbits t = (match s.straps.rateFirst, s.straps.rateSecond with
        | false, false => 6000
        | true, false => 12000
        | false, true => 25000
        | true, true => 6000) := by
  have hexec := exec_lockTimerExpiry href hx
  obtain ⟨u, hu, hrest⟩ : ∃ u, u = (if s.isRunning then restoreDram (lockedAt s x.deadline) else lockedAt s x.deadline) ∧
      { u with retentionHold := (lockedAt s x.deadline).retentionHold, seq := (lockedAt s x.deadline).seq
               memory := (lockedAt s x.deadline).memory } = lockedAt s x.deadline := by
    refine ⟨_, rfl, ?_⟩
    split
    · exact restoreDram_rest _
    · rfl
  have hoff := lockedAt_offPorts s x.deadline
  have hsettle := (settle_onlyWork u).offEngine
  have hclock : (settle u).clock = ⟨.locked, none, s.clock.lastEdge⟩ :=
    hsettle.clock.trans ((congrArg State.clock hrest :).trans (lockedAt_clock s x.deadline))
  have hstraps : (settle u).straps = s.straps :=
    hsettle.straps.trans ((congrArg State.straps hrest :).trans (hoff.straps.trans (reach_straps s _)))
  refine ⟨_, hexec, restoreReference_eq s x.deadline, ?_⟩
  rw [restoreReference_eq, ← hu]
  refine ⟨hclock, ?_, ?_, ?_, ?_, transmitKbits_locked hstraps (by rw [hclock])⟩
  · exact hsettle.now.trans ((congrArg State.now hrest :).trans hoff.now)
  · exact hsettle.restart.trans ((congrArg State.restart hrest :).trans (hoff.restart.trans (reach_restart s _)))
  · exact hsettle.regions.trans ((congrArg State.regions hrest :).trans (hoff.regions.trans (reach_regions s _)))
  · exact hsettle.params.trans ((congrArg State.params hrest :).trans (hoff.params.trans (reach_params s _)))

theorem settle_still_dram {s : State} (h : s.seq.dram.still = true) : (settle s).seq.dram = s.seq.dram := by
  rw [settle_still h]
  rfl

/-- The wake from retention at a restoration (R168, R169). -/
theorem settle_wakeRetention {s u : State} {r : Range} (hu : restoreDram u = wakeRetention u r)
    (hmemory : u.memory = s.memory) :
    (settle (restoreDram u)).seq.dram = .waking .ready (.retention r) ∧
      (settle (restoreDram u)).retentionHold = false ∧ (settle (restoreDram u)).memory = s.memory := by
  rw [hu]
  exact ⟨settle_still_dram rfl, (settle_onlyWork _).offEngine.retentionHold,
    (settle_onlyWork _).offEngine.memory.trans hmemory⟩

/-- Settles O60: the edge is a change of the clock alone; the lock's restoration acts by the DRAM's state while the hub
runs, and not at all in a warm restart. -/
theorem edgesAndLocksRestoreTheDram : Obligations.EdgesAndLocksRestoreTheDram := by
  refine ⟨fun s => ⟨fun hlost hrestart => ?_, fun href => ?_⟩, fun s x href hx hrun => ?_, fun s x href hx hrun => ?_⟩
  · have hexec : exec .refEdge s = execRefEdge s := rfl
    rw [hexec, execRefEdge, hlost]
    dsimp only
    rw [if_neg hrestart]
    rfl
  · have hexec : exec .refEdge s = execRefEdge s := rfl
    rw [hexec, execRefEdge]
    split
    · next h => exact absurd h href
    · rfl
    · rfl
  · obtain ⟨t, hexec, ht, hclock, hnow, hrestart, hregions, hparams, hrate⟩ := lockTimerExpiry_leaves href hx
    have hlocked : lockedAt s x.deadline
        = { s.reach x.deadline with clock := { (s.reach x.deadline).clock with ref := .locked, lockTimer := none } } :=
      postAll_notRunning _ ((reach_isRunning s x.deadline).trans hrun)
    rw [if_neg (by simp [hrun])] at ht
    refine ⟨t, hexec, hclock, hnow, hrestart, hregions, hparams, fun p => ?_, hrate, fun hdram => ?_⟩
    · rw [ht, (settle_onlyWork _).notices p, hlocked]
      exact reach_notices s x.deadline p
    · have hstill : (lockedAt s x.deadline).seq.dram.still = true := by
        rw [lockedAt_dram]
        obtain hd | ⟨_, _, hd⟩ := hdram <;> rw [hd] <;> rfl
      rw [ht]
      exact ⟨(settle_still_dram hstill).trans (lockedAt_dram s _),
        (settle_onlyWork _).offEngine.retentionHold.trans (lockedAt_hold s _),
        (settle_onlyWork _).offEngine.memory.trans (lockedAt_memory s _)⟩
  · obtain ⟨t, hexec, ht, hclock, hnow, -, hregions, hparams, hrate⟩ := lockTimerExpiry_leaves href hx
    rw [if_pos hrun] at ht
    have hdram := lockedAt_dram s x.deadline
    refine ⟨t, hexec, hclock, hnow, hregions, hparams, hrate, fun p hlive htx hroom => ?_, fun hd => ?_, fun hd => ?_,
      fun r hd => ?_, fun r hd hauto => ?_, fun r hd hsup => ?_⟩ <;> rw [ht]
    · rw [(settle_onlyWork _).notices p, notices_congr (restoreDram_ports _) p, lockedAt_notices _ hrun hlive htx,
        enqueue_refRestored hroom]
    · have hrestore : restoreDram (lockedAt s x.deadline) = startInit (lockedAt s x.deadline) := by
        simp only [restoreDram, hdram, hd]
      rw [hrestore, settle_still rfl]
      exact ⟨rfl, rfl, allClosed_get⟩
    · have hrestore : restoreDram (lockedAt s x.deadline) = lockedAt s x.deadline := by
        simp only [restoreDram, hdram, hd]
      rw [hrestore, settle_still_dram (by rw [hdram, hd]; rfl), hdram, hd]
    · exact settle_wakeRetention (by simp only [restoreDram, hdram, hd]) (lockedAt_memory s _)
    · exact settle_wakeRetention
        (by simp only [restoreDram, hdram, hd, lockedAt_params, hauto, if_true]) (lockedAt_memory s _)
    · have hrestore : restoreDram (lockedAt s x.deadline) = lockedAt s x.deadline := by
        simp [restoreDram, hdram, hd, lockedAt_params, hsup]
      rw [hrestore]
      exact ⟨(settle_still_dram (by rw [hdram, hd]; rfl)).trans (hdram.trans hd),
        (settle_onlyWork _).offEngine.retentionHold.trans (lockedAt_hold s _),
        (settle_onlyWork _).offEngine.memory.trans (lockedAt_memory s _)⟩

end Sys2Proof.Machine
end

section
/-! PROOFS. What a cancellation leaves of the FIFOs (R107, R112 to R116), and the recovery and restart commands (R131,
R133, R170 to R173). -/

namespace Sys2Proof.Machine

/-! ### FIFOs after a cancellation -/

theorem cancelFrom_fifo (p : Port) (hit : Entry → Bool) (pl : Option (List Byte)) :
    ∀ (l kept : List Entry) (s : State), s.fifo p = kept ++ l →
      (cancelFrom p hit pl kept l s).fifo p = kept ++ l.filter fun e => !hit e
  | [], kept, s, hl => by simpa [cancelFrom] using hl
  | e :: l, kept, s, hl => by
    rw [cancelFrom]
    split
    · next hhit =>
      rw [cancelFrom_fifo p hit pl l kept _ (by simp), List.filter_cons_of_neg (by simp [hhit])]
    · next hhit =>
      rw [cancelFrom_fifo p hit pl l (kept ++ [e]) s (by simp [hl]), List.filter_cons_of_pos (by simp [hhit])]
      simp

theorem cancelFrom_fifo_ne {p q : Port} (hit : Entry → Bool) (pl : Option (List Byte)) (hq : q ≠ p) :
    ∀ (l kept : List Entry) (s : State), (cancelFrom p hit pl kept l s).fifo q = s.fifo q
  | [], _, _ => rfl
  | e :: l, kept, s => by
    rw [cancelFrom]
    split
    · rw [cancelFrom_fifo_ne hit pl hq l, endEntry_fifo, fifo_setFifo_ne _ _ _ hq]
    · exact cancelFrom_fifo_ne hit pl hq l _ s

/-- The entries that a cancellation picks among those not started are gone, and every other one stays (R107). -/
theorem cancelWaiting_fifo (s : State) (p : Port) (pl : Option (List Byte)) (sel : Entry → Bool) :
    (cancelWaiting s p pl sel).fifo p = (s.fifo p).filter fun e => !(!e.started && sel e) :=
  cancelFrom_fifo p _ pl (s.fifo p) [] s rfl

theorem cancelWaiting_fifo_ne (s : State) {p q : Port} (pl : Option (List Byte)) (sel : Entry → Bool) (hq : q ≠ p) :
    (cancelWaiting s p pl sel).fifo q = s.fifo q := cancelFrom_fifo_ne _ pl hq _ _ s

theorem stopStarted_fifo_ne (s : State) {p q : Port} (o : StopOrder) (sel : Entry → Bool) (hq : q ≠ p) :
    (stopStarted s p o sel).fifo q = s.fifo q := by
  unfold stopStarted
  split
  · rfl
  · split
    · dsimp only
      split
      · rw [endEntry_fifo, fifo_setFifo_ne _ _ _ hq]
      · exact fifo_setFifo_ne _ _ _ hq
    · rfl

/-! ### What no cancellation changes -/

/-- The Sequencer's record but for the self refresh timer's reference point (R137). -/
def Sequencer.offQuiet (q : Sequencer) : Sequencer := { q with srRef := none }

theorem closed_offQuiet : Closed fun s t => t.seq.offQuiet = s.seq.offQuiet where
  refl _ := rfl
  trans h g := g.trans h
  handReply s r b c pl := congrArg Sequencer.offQuiet (handReply_offPorts s r b c pl).seq
  post s p n := congrArg Sequencer.offQuiet (post_offPorts s p n).seq
  fifo _ _ _ := rfl
  slot _ _ _ := rfl
  reports _ _ := rfl
  region _ _ _ _ _ _ _ := rfl
  quiet _ _ := rfl

section
variable {q r : Sequencer} (h : r.offQuiet = q.offQuiet)
include h
theorem offQuiet_dram : r.dram = q.dram := (congrArg Sequencer.dram h :)
theorem offQuiet_banks : r.banks = q.banks := (congrArg Sequencer.banks h :)
theorem offQuiet_debt : r.debt = q.debt := (congrArg Sequencer.debt h :)
theorem offQuiet_bus : r.bus = q.bus := (congrArg Sequencer.bus h :)
theorem offQuiet_opTimer : r.opTimer = q.opTimer := (congrArg Sequencer.opTimer h :)
theorem offQuiet_residency : r.residency = q.residency := (congrArg Sequencer.residency h :)
theorem offQuiet_retEntry : r.retEntry = q.retEntry := (congrArg Sequencer.retEntry h :)
theorem offQuiet_reinit : r.reinit = q.reinit := (congrArg Sequencer.reinit h :)
theorem offQuiet_condition : r.condition = q.condition := (congrArg Sequencer.condition h :)
end

/-- Pins, restart, parameters, regions and sessions are as they were. -/
structure KeepsSetting (s t : State) : Prop where
  resetPin : t.resetPin = s.resetPin
  restart : t.restart = s.restart
  params : t.params = s.params
  regions : t.regions = s.regions
  session : ∀ q, t.session q = s.session q

theorem KeepsSetting.trans {s t u : State} (h : KeepsSetting s t) (g : KeepsSetting t u) : KeepsSetting s u :=
  ⟨g.resetPin.trans h.resetPin, g.restart.trans h.restart, g.params.trans h.params, g.regions.trans h.regions,
    fun q => (g.session q).trans (h.session q)⟩

theorem KeepsRest.setting {s t : State} (h : KeepsRest s t) : KeepsSetting s t :=
  ⟨(congrArg State.resetPin h.rest :), (congrArg State.restart h.rest :), (congrArg State.params h.rest :),
    (congrArg State.regions h.rest :), h.session⟩

/-! ### A warm restart silences the Engine (R115) -/

/-- Nothing of the port waits: no request in its admission slot, and every entry of its FIFO is started. -/
def Silenced (s : State) (p : Port) : Prop := s.slot p = none ∧ ∀ e ∈ s.fifo p, e.started = true

theorem Silenced.of_eq {s t : State} {p : Port} (h : Silenced s p) (hslot : t.slot p = s.slot p)
    (hfifo : t.fifo p = s.fifo p) : Silenced t p := ⟨hslot.trans h.1, hfifo ▸ h.2⟩

theorem silenceEntries_keeps (s : State) (p : Port) : KeepsRest (s.setSlot p none) (silenceEntries s p) :=
  (seqClosed_keepsRest.stopStarted _ _ _ _).trans (seqClosed_keepsRest.cancelFrom _ _ _ _ _ _)

theorem silenceEntries_setting (s : State) (p : Port) : KeepsSetting s (silenceEntries s p) :=
  KeepsSetting.trans (t := s.setSlot p none) ⟨rfl, rfl, rfl, rfl, fun q => session_setSlot s p none q⟩ (silenceEntries_keeps s p).setting

theorem silenceEntries_self (s : State) (p : Port) : Silenced (silenceEntries s p) p := by
  refine ⟨((silenceEntries_keeps s p).slot p).trans (slot_setSlot_self s p none), fun e he => ?_⟩
  unfold silenceEntries at he
  rw [cancelWaiting_fifo] at he
  simpa using List.of_mem_filter he

theorem slot_setSlot_ne (s : State) {p q : Port} (x : Option Request) (h : q ≠ p) : (s.setSlot p x).slot q = s.slot q :=
  congrArg PortState.slot (port_setPort_ne s _ h)

theorem silenceEntries_ne {s : State} {p q : Port} (h : Silenced s q) (hq : q ≠ p) : Silenced (silenceEntries s p) q := by
  refine h.of_eq ?_ ?_
  · exact ((silenceEntries_keeps s p).slot q).trans (slot_setSlot_ne s none hq)
  · unfold silenceEntries
    rw [cancelWaiting_fifo_ne _ _ _ hq, stopStarted_fifo_ne _ _ _ hq, fifo_setSlot]

theorem foldl_silenceEntries {p : Port} : ∀ (l : List Port) (s : State), p ∈ l ∨ Silenced s p →
    Silenced (l.foldl silenceEntries s) p
  | [], s, h => h.resolve_left (by simp)
  | q :: l, s, h => by
    refine foldl_silenceEntries l _ ?_
    by_cases hq : p = q
    · subst hq
      exact .inr (silenceEntries_self s p)
    · obtain hmem | hs := h
      · exact .inl ((List.mem_cons.mp hmem).resolve_left hq)
      · exact .inr (silenceEntries_ne hs hq)

theorem silenceAll_silenced (s : State) (p : Port) : Silenced (silenceAll s) p :=
  foldl_silenceEntries allPorts s (.inl (mem_allPorts p))

theorem silenceAll_setting (s : State) : KeepsSetting s (silenceAll s) := by
  have hfold : ∀ (l : List Port) (t : State), KeepsSetting t (l.foldl silenceEntries t) := by
    intro l
    induction l with
    | nil => exact fun t => ⟨rfl, rfl, rfl, rfl, fun _ => rfl⟩
    | cons q l ih => exact fun t => (silenceEntries_setting t q).trans (ih _)
  exact hfold allPorts s

theorem Silenced.settled {s : State} {p : Port} (h : Silenced s p) : Silenced (settle s) p := by
  refine ⟨((settle_onlyWork s).slot p).trans h.1, fun x hx => ?_⟩
  obtain ⟨e, he, hex⟩ := settle_descends s p x hx
  exact hex.started (h.2 e he)

/-- What the beginning of a warm restart leaves (R172). -/
theorem beginRestart_leaves (s : State) (c : ResetCause) :
    KeepsSetting { s with restart := .begun c } (beginRestart s c) ∧ ∀ p, Silenced (beginRestart s c) p := by
  have hentry := seqClosed_keepsRest.beginRetention { s with restart := .begun c } .restart
  have hreinit := hentry.trans (seqClosed_keepsRest.seq _
    { (beginRetention { s with restart := .begun c } .restart).seq with reinit := none })
  exact ⟨hreinit.setting.trans ((silenceAll_setting _).trans (seqClosed_keepsRest.settle _).setting),
    fun p => (silenceAll_silenced _ p).settled⟩

/-- A DRAM never ready, or failed, is UNINITIALIZED once a warm restart has begun (R172). -/
theorem beginRestart_dram {s : State} (c : ResetCause)
    (h : s.seq.dram = .failed ∨ s.seq.dram = .uninitialized ∨ ∃ x, s.seq.dram = .initializing x) :
    (beginRestart s c).seq.dram = .uninitialized := by
  have hentry : (beginRetention { s with restart := .begun c } .restart).seq.dram = .uninitialized := by
    obtain hd | hd | ⟨x, hd⟩ := h
    · simp [beginRetention, hd]
    · simp [beginRetention, hd]
    · simp only [beginRetention, hd]
      rfl
  have hsilenced := (offQuiet_dram (closed_offQuiet.silenceAll
    ((beginRetention { s with restart := .begun c } .restart).setSeq
      { (beginRetention { s with restart := .begun c } .restart).seq with reinit := none }))).trans hentry
  exact (settle_still_dram (congrArg DramState.still hsilenced)).trans hsilenced

/-! ### RESTART and RESET_ASSERTED -/

/-- A reply that begins at once, and one that waits (R15). -/
theorem handReply_sent {s : State} {r : ReplyTo} (a b : Bool) (pl : List Byte) (hacc : acceptsReply s r = true)
    (hrun : s.isRunning = true) :
    ((s.link r.port).tx = none → (s.link r.port).responses = [] →
      ((handReply s r a b pl).link r.port).tx = some ⟨replyFrame r a pl, b⟩) ∧
    ((s.link r.port).tx ≠ none → ((handReply s r a b pl).link r.port).responses
      = (s.link r.port).responses ++ [⟨.reply, replyFrame r a pl, b⟩]) := by
  have hhand : handReply s r a b pl = arbitrate (s.setLink r.port { s.link r.port with
      inFlight := (s.link r.port).withEntry r.tag .free
      cache := (s.link r.port).withCached r.tag (replyFrame r a pl)
      responses := (s.link r.port).responses ++ [⟨.reply, replyFrame r a pl, b⟩] }) r.port := if_pos hacc
  rw [hhand, arbitrate, if_pos (by exact hrun)]
  refine ⟨fun htx hresp => ?_, fun htx => ?_⟩
  · simp [htx, hresp]
  · obtain ⟨x, hx⟩ := Option.ne_none_iff_exists'.mp htx
    simp [hx]

theorem exec_restart {s : State} {p : Port} {tb : Byte} (h : Reaches s p .restart tb []) :
    exec (.restart p tb []) s = .next (handReply (afterTake s p tb) (replyFor s p .restart tb) false true okPayload) :=
  exec_reaches (rd := readEmpty) (act := fun t q _ => serveRestart t q) h rfl rfl

theorem afterTake_link_tx (s : State) (p : Port) (tb : Byte) : ((afterTake s p tb).link p).tx = (s.link p).tx := by
  simp [afterTake, takeTag, reportGood_link]

theorem afterTake_link_responses (s : State) (p : Port) (tb : Byte) :
    ((afterTake s p tb).link p).responses = (s.link p).responses := by
  simp [afterTake, takeTag, reportGood_link]

/-- Settles O50: the OK that carries the restart; and what the restart's beginning leaves. -/
theorem restartsBegin : Obligations.RestartsBegin := by
  refine ⟨fun p tb s h => ?_, fun s hpin => ⟨fun hrun => ?_, fun c hbegun => ?_, fun hwait => ?_⟩⟩
  · have ⟨⟨⟨hrun, _⟩, _⟩, _⟩ := h
    have hans := answered_handReply (afterTake s p tb) (replyFor s p .restart tb) false true okPayload
      (accepts_taken s p .restart tb)
    obtain ⟨hidle, hbusy⟩ := handReply_sent (r := replyFor s p .restart tb) false true okPayload
      (accepts_taken s p .restart tb) ((afterTake_run s p tb).trans hrun)
    refine ⟨_, exec_restart h, hans.beforeTake, ?_, fun htx hresp => ?_, fun htx => ?_⟩
    · rw [hans.rest.restart, (afterTake_offPorts s p tb).restart]
      simpa [State.isRunning] using hrun
    · exact hidle ((afterTake_link_tx s p tb).trans htx) ((afterTake_link_responses s p tb).trans hresp)
    · exact (hbusy (fun hnone => htx ((afterTake_link_tx s p tb).symm.trans hnone))).trans
        (congrArg (· ++ _) (afterTake_link_responses s p tb))
  · obtain ⟨hkeeps, hsilenced⟩ := beginRestart_leaves { s with resetPin := .low } .pin
    have hexec : exec .resetAsserted s = execResetAsserted s := rfl
    refine ⟨beginRestart { s with resetPin := .low } .pin, ?_, hkeeps.restart, hkeeps.resetPin,
      fun p => (hsilenced p).1, fun p => (hsilenced p).2, hkeeps.regions, hkeeps.params, hkeeps.session,
      fun hdram => beginRestart_dram .pin hdram⟩
    rw [hexec, execResetAsserted, if_neg (by simp [hpin])]
    dsimp only
    rw [hrun]
  · have hexec : exec .resetAsserted s = execResetAsserted s := rfl
    rw [hexec, execResetAsserted, if_neg (by simp [hpin])]
    dsimp only
    rw [hbegun]
  · have hexec : exec .resetAsserted s = execResetAsserted s := rfl
    rw [hexec, execResetAsserted, if_neg (by simp [hpin])]
    dsimp only
    rw [hwait]

/-! ### WARM_RESTART_RESET and RESET_RELEASED -/

/-- The record of the Sequencer over a reset, with a retention entry running and without (R173). -/
theorem resetSequencer_entry {s : State} (h : s.seq.retEntry ≠ none) : resetSequencer s =
    { Sequencer.powerOn s.now with
      dram := s.seq.dram, condition := restartCondition s.seq.condition, banks := s.seq.banks, debt := s.seq.debt
      urgent := s.seq.urgent, bus := s.seq.bus, opTimer := s.seq.opTimer, residency := s.seq.residency
      retEntry := s.seq.retEntry } := by
  rw [resetSequencer, if_pos (Option.isSome_iff_ne_none.mpr h)]

theorem resetSequencer_noEntry {s : State} (h : s.seq.retEntry = none) : resetSequencer s =
    { Sequencer.powerOn s.now with dram := s.seq.dram, condition := restartCondition s.seq.condition } := by
  rw [resetSequencer, if_neg (by simp [h])]

theorem resetSequencer_kept (s : State) :
    (resetSequencer s).kept = [] ∧ (resetSequencer s).lastServed = .d ∧
      (resetSequencer s).condition = restartCondition s.seq.condition := by
  by_cases h : s.seq.retEntry = none
  · rw [resetSequencer_noEntry h]
    exact ⟨rfl, rfl, rfl⟩
  · rw [resetSequencer_entry h]
    exact ⟨rfl, rfl, rfl⟩

theorem restartCondition_eq (c : MemCondition) : restartCondition c = if c = .suspect then .suspect else .retained := by
  cases c <;> rfl

theorem heldForRetention_iff (q : Sequencer) :
    heldForRetention q = true ↔ q.retEntry ≠ none ∨ ∃ r y, q.dram = .retention r y := by
  cases hd : q.dram <;> simp [heldForRetention, hd, Option.isSome_iff_ne_none]

/-- What the reset leaves that the release leaves too. -/
structure ResetLeaves (s t : State) (cause : ResetCause) : Prop where
  blocks : BlocksAtReset t cause
  memory : t.memory = s.memory
  seq : t.seq = resetSequencer s
  ref : t.clock.ref = .locking
  band : t.thermal.band = .unknown
  reading : t.thermal.reading = none
  hold : t.retentionHold = heldForRetention s.seq

theorem resetBlocks_leaves (s : State) (cause : ResetCause) : ResetLeaves s (resetBlocks s cause) cause :=
  ⟨blocksAtReset_of (t := resetBlocks s cause) rfl rfl rfl rfl, rfl, rfl, rfl, rfl, rfl, rfl⟩

theorem release_leaves (s : State) (cause : ResetCause) (x : Straps) :
    ResetLeaves s (release (resetBlocks s cause) x) cause :=
  ⟨blocksAtReset_of (t := release (resetBlocks s cause) x) rfl rfl rfl rfl, rfl, rfl, rfl, rfl, rfl, rfl⟩

/-- A restart begun, with no started entry left, takes its reset (R173). -/
theorem exec_warmRestartReset {s : State} {x : Straps} {cause : ResetCause} (hbegun : s.restart = .begun cause)
    (hstarted : anyStarted s = false) : exec (.warmRestartReset x) s =
      .next (if cause = .command ∨ s.resetPin = .high then release (resetBlocks s cause) x else resetBlocks s cause) := by
  have hexec : exec (.warmRestartReset x) s = execWarmRestartReset x s := rfl
  rw [hexec, execWarmRestartReset, hbegun]
  dsimp only
  rw [if_neg (by simp [hstarted])]
  split <;> rfl

/-- Settles O51: what the reset and the release leave of each block, and the record of the Sequencer by the retention
entry. -/
theorem warmRestartsResetEveryBlock : Obligations.WarmRestartsResetEveryBlock := by
  refine ⟨fun x cause s hbegun hstarted => ?_, fun x s hpin => ⟨fun hrestart => ?_, fun hwait href => ?_⟩⟩
  · have hexec := exec_warmRestartReset (x := x) hbegun hstarted
    obtain ⟨t, ht, hleaves, hreleased, hwaits⟩ : ∃ t,
        t = (if cause = .command ∨ s.resetPin = .high then release (resetBlocks s cause) x else resetBlocks s cause) ∧
        ResetLeaves s t cause ∧
        ((cause = .command ∨ s.resetPin = .high) → t = release (resetBlocks s cause) x) ∧
        (¬ (cause = .command ∨ s.resetPin = .high) → t = resetBlocks s cause) := by
      by_cases hc : cause = .command ∨ s.resetPin = .high
      · exact ⟨_, rfl, by rw [if_pos hc]; exact release_leaves s cause x, fun _ => if_pos hc, fun hn => absurd hc hn⟩
      · exact ⟨_, rfl, by rw [if_neg hc]; exact resetBlocks_leaves s cause, fun hp => absurd hp hc, fun _ => if_neg hc⟩
    rw [← ht] at hexec
    obtain ⟨hblocks, hmemory, hseq, href, hband, hreading, hhold⟩ := hleaves
    obtain ⟨hkept, hserved, hcond⟩ := resetSequencer_kept s
    refine ⟨t, hexec, hblocks, hmemory, ?_, ?_, ?_, ?_, href, hband, hreading, ?_, ?_, fun hret => ?_, fun hret => ?_,
      fun hc => ?_, fun hc => ?_⟩
    · rw [hseq, resetSequencer_overruns]
    · rw [hseq, hkept]
    · rw [hseq, hserved]
    · rw [hseq, resetSequencer_dram]
    · rw [hseq, hcond, restartCondition_eq]
    · rw [hhold, heldForRetention_iff]
    · rw [hseq, resetSequencer_noEntry hret]
      exact ⟨rfl, allClosed_get, rfl⟩
    · rw [hseq, resetSequencer_entry hret]
      exact ⟨rfl, rfl, rfl⟩
    · rw [hreleased hc]
      exact ⟨rfl, rfl, supervisorPort_index x, rfl, rfl⟩
    · rw [hwaits hc]
      exact ⟨rfl, rfl, rfl⟩
  · have hexec : exec (.resetReleased x) s = execResetReleased x s := rfl
    rw [hexec, execResetReleased, if_neg (by simp [hpin])]
    dsimp only
    split
    · next h => exact absurd h hrestart
    · rfl
    · rfl
  · have hexec : exec (.resetReleased x) s = execResetReleased x s := rfl
    refine ⟨release { s with resetPin := .high } x, ?_, rfl, rfl, supervisorPort_index x, ?_, rfl, rfl, rfl, rfl, rfl,
      rfl⟩
    · rw [hexec, execResetReleased, if_neg (by simp [hpin])]
      dsimp only
      rw [hwait]
    · exact if_pos href

/-! ### REINIT -/

theorem engineEmpty_afterTake (s : State) (p : Port) (tb : Byte) : engineEmpty (afterTake s p tb) = engineEmpty s := by
  simp only [engineEmpty, afterTake_fifo, afterTake_slot]

theorem exec_reinit {s : State} {p : Port} {tb : Byte} (h : Reaches s p .reinit tb []) :
    exec (.reinit p tb []) s = .next (serveReinit (afterTake s p tb) ⟨replyFor s p .reinit tb, tb, []⟩) :=
  exec_reaches (rd := readEmpty) (act := fun t q _ => serveReinit t q) h rfl rfl

/-- An accepted REINIT keeps its tag in flight (R131). -/
theorem serveReinit_accepted {s t : State} {q : Request} (h : acceptReinit s = some t) :
    serveReinit s q = { t with seq := { t.seq with reinit := some q.replyTo } } := by
  rw [serveReinit, h]

theorem serveReinit_busy {s : State} {q : Request} (h : acceptReinit s = none) :
    serveReinit s q = answer s q.replyTo .busy := by
  rw [serveReinit, h]

section
variable {s : State}

theorem acceptReinit_init (h : (s.seq.dram = .failed ∧ s.clock.ref = .locked) ∨
    (s.seq.dram = .ready ∧ s.seq.bus ≠ .refresh ∧ engineEmpty s = true ∧ s.retentionHold = false)) :
    acceptReinit s = some (startInit s) := by
  unfold acceptReinit
  obtain ⟨hd, href⟩ | ⟨hd, hbus, hempty, hhold⟩ := h
  · rw [hd]
    exact if_pos href
  · rw [hd]
    exact (if_pos (by simp [hempty, hhold])).trans (if_neg hbus)

theorem acceptReinit_refresh (hd : s.seq.dram = .ready) (hbus : s.seq.bus = .refresh) (hempty : engineEmpty s = true)
    (hhold : s.retentionHold = false) :
    acceptReinit s = some (prepareInit s .awaitRefresh s.seq.opTimer) := by
  unfold acceptReinit
  rw [hd]
  exact (if_pos (by simp [hempty, hhold])).trans (if_pos hbus)

theorem acceptReinit_powerDown {k : PdKind} (hd : s.seq.dram = .powerDown k) (hempty : engineEmpty s = true)
    (hhold : s.retentionHold = false) :
    acceptReinit s = if s.seq.residency.isSome then some (prepareInit s (.residency k) none)
      else some (prepareInit s (.leavePowerDown k) (opTimer s (pdExitNs k))) := by
  unfold acceptReinit
  rw [hd]
  exact if_pos (by simp [hempty, hhold])

/-- Every other state of the hub refuses a REINIT (R131). -/
theorem acceptReinit_none (h : (s.seq.dram = .failed ∧ s.clock.ref ≠ .locked) ∨
    ((s.seq.dram = .ready ∨ ∃ k, s.seq.dram = .powerDown k) ∧ (engineEmpty s = false ∨ s.retentionHold = true)) ∨
    s.seq.dram = .uninitialized ∨ (∃ x, s.seq.dram = .initializing x) ∨ (∃ x y, s.seq.dram = .enteringSr x y) ∨
    (∃ x, s.seq.dram = .selfRefresh x) ∨ (∃ x y, s.seq.dram = .waking x y) ∨ ∃ x y, s.seq.dram = .retention x y) :
    acceptReinit s = none := by
  unfold acceptReinit
  obtain ⟨hd, href⟩ | ⟨hd, hbusy⟩ | hd | ⟨x, hd⟩ | ⟨x, y, hd⟩ | ⟨x, hd⟩ | ⟨x, y, hd⟩ | ⟨x, y, hd⟩ := h
  · rw [hd]
    exact if_neg href
  · have hbusy' : ¬ (engineEmpty s && !s.retentionHold) = true := by
      obtain hb | hb := hbusy <;> simp [hb]
    obtain hd | ⟨k, hd⟩ := hd <;> rw [hd] <;> exact if_neg hbusy'
  all_goals rw [hd]

end

/-- Settles O48: the DRAM's state decides on the acceptance and on the step that init begins with. -/
theorem reinitBeginsInit : Obligations.ReinitBeginsInit := by
  intro p tb s h
  have hexec := exec_reinit h
  have haccept : ∀ {t}, acceptReinit (afterTake s p tb) = some t → exec (.reinit p tb []) s
      = .next { t with seq := { t.seq with reinit := some (replyFor s p .reinit tb) } } := fun {t} ht => by
    rw [hexec, serveReinit_accepted ht]
  have hseq := afterTake_seq s p tb
  have hempty := engineEmpty_afterTake s p tb
  have hhold := afterTake_hold s p tb
  have hclock := afterTake_clock s p tb
  refine ⟨fun hinit => ?_, fun hd hbus he hh => ?_, fun k hd he hh => ?_, fun hbusy => ?_⟩
  · rw [← hseq, ← hempty, ← hhold, ← hclock] at hinit
    refine ⟨_, haccept (acceptReinit_init hinit), rfl, rfl, allClosed_get, rfl, ?_, ?_, ?_, rfl⟩
    · exact (afterTake_offPorts s p tb).regions
    · exact (congrArg Sequencer.overruns hseq :)
    · exact (congrArg Sequencer.lastServed hseq :)
  · rw [← hseq] at hd hbus
    exact ⟨_, haccept (acceptReinit_refresh hd hbus (hempty.trans he) (hhold.trans hh)), rfl, rfl, hbus, rfl⟩
  · have hd' : (afterTake s p tb).seq.dram = .powerDown k := by rw [hseq, hd]
    have haccepts := acceptReinit_powerDown hd' (hempty.trans he) (hhold.trans hh)
    by_cases hres : s.seq.residency = none
    · rw [hseq, hres] at haccepts
      exact ⟨_, haccept haccepts, rfl, rfl, fun _ => rfl, fun hne => absurd hres hne⟩
    · rw [hseq, if_pos (Option.isSome_iff_ne_none.mpr hres)] at haccepts
      exact ⟨_, haccept haccepts, rfl, rfl, fun hnone => absurd hnone hres, fun _ => rfl⟩
  · rw [← hseq, ← hempty, ← hhold, ← hclock] at hbusy
    rw [serveReinit_busy (acceptReinit_none hbusy)] at hexec
    exact answersStatus_of_answer _ s p .reinit tb .busy hexec

/-! ### RESUME and CLEAR_SUSPECT -/

theorem OffPorts.setSeq {s t : State} (h : OffPorts s t) (q : Sequencer) : OffPorts (s.setSeq q) (t.setSeq q) := by
  cases s; cases t
  simp only [OffPorts, State.setSeq, State.mk.injEq] at h ⊢
  simp_all

/-- Settles O49: the reference and the DRAM's state decide on the wake; the condition on the clearing. -/
theorem resumeAndClearSuspectRecover : Obligations.ResumeAndClearSuspectRecover := by
  refine ⟨fun p tb s h => ?_, fun p tb s h => ?_⟩
  · have hexec : exec (.resume p tb []) s =
        .next (serveResume (afterTake s p tb) ⟨replyFor s p .resume tb, tb, []⟩) :=
      exec_reaches (rd := readEmpty) (act := fun t q _ => serveResume t q) h rfl rfl
    have hclock := afterTake_clock s p tb
    have hans := answered_handReply (afterTake s p tb) (replyFor s p .resume tb) false false [0x00]
      (accepts_taken s p .resume tb)
    have hdram : (answer (afterTake s p tb) (replyFor s p .resume tb) .ok).seq.dram = s.seq.dram :=
      (congrArg Sequencer.dram hans.rest.seq).trans (congrArg Sequencer.dram (afterTake_seq s p tb))
    refine ⟨fun href => ?_, fun href hawake => ?_, fun x y href hd => ?_⟩
    · rw [serveResume, hclock, if_pos href] at hexec
      exact answersStatus_of_answer _ s p .resume tb .notLocked hexec
    · refine answersStatus_of_answer _ s p .resume tb .ok (hexec.trans (congrArg _ ?_))
      rw [serveResume, hclock, if_neg (not_not.mpr href)]
      dsimp only
      split
      · next r w hret => exact absurd (hdram.symm.trans hret) (hawake r w)
      · rfl
    · rw [serveResume, hclock, if_neg (not_not.mpr href)] at hexec
      dsimp only at hexec
      rw [hdram, hd] at hexec
      dsimp only at hexec
      have href' : (answer (afterTake s p tb) (replyFor s p .resume tb) .ok).clock.ref = .locked :=
        (congrArg Clock.ref (hans.rest.clock.trans hclock) :).trans href
      have hreplied : Replied (answer (afterTake s p tb) (replyFor s p .resume tb) .ok)
          (replyFor s p .resume tb) [0x00] := hans.replied
      have hwake : KeepsReplies (answer (afterTake s p tb) (replyFor s p .resume tb) .ok)
          (wakeRetention (answer (afterTake s p tb) (replyFor s p .resume tb) .ok) x) := .of_link fun _ => rfl
      refine ⟨_, hexec, hwake _ _ hreplied, rfl, rfl, ?_, ?_, ?_⟩
      · have hnow : (answer (afterTake s p tb) (replyFor s p .resume tb) .ok).now = s.now :=
          hans.rest.now.trans (afterTake_now s p tb)
        have hns : opNs (answer (afterTake s p tb) (replyFor s p .resume tb) .ok) 700 = 700 := if_pos href'
        exact congrArg₂ (fun a b => some (⟨a, b + a⟩ : Timer)) hns hnow
      · exact hans.rest.regions.trans (afterTake_offPorts s p tb).regions
      · exact hans.rest.memory.trans (afterTake_memory s p tb)
  · have hexec : exec (.clearSuspect p tb []) s =
        .next (serveClearSuspect (afterTake s p tb) ⟨replyFor s p .clearSuspect tb, tb, []⟩) :=
      exec_reaches (rd := readEmpty) (act := fun t q _ => serveClearSuspect t q) h rfl rfl
    rw [serveClearSuspect, afterTake_seq] at hexec
    refine ⟨fun hother => ?_, fun hsuspect => ?_⟩
    · rw [if_neg hother] at hexec
      exact answersStatus_of_answer _ s p .clearSuspect tb .ok hexec
    · rw [if_pos hsuspect] at hexec
      have hans := answered_handReply ((afterTake s p tb).setSeq { s.seq with condition := .retained })
        (replyFor s p .clearSuspect tb) false false [0x00] (accepts_taken s p .clearSuspect tb)
      refine ⟨_, hexec, closed_keepsReplies.postAll _ _ _ _ hans.replied, ?_⟩
      exact ((afterTake_offPorts s p tb).setSeq { s.seq with condition := .retained }).trans
        (hans.rest.trans (postAll_offPorts _ _))

end Sys2Proof.Machine
end

section
/-! PROOFS. The Sequencer's operations come to their ends: refreshes (R126), entries into self refresh (R143, R144),
the way into RETENTION (R165), and the ticks (R127, R128, R141). -/

namespace Sys2Proof.Machine

/-! ### Time that starts nothing -/

theorem endOp_stays {s : State} (h : startDue s = s) :
    ∃ n, endOp s = { s with now := n, seq := { s.seq with opTimer := none } } := by
  cases hop : s.seq.opTimer with
  | none => exact ⟨s.now, by rw [endOp, hop]; rfl⟩
  | some x =>
    refine ⟨max s.now x.deadline, ?_⟩
    rw [endOp, hop, State.reachTimer, reach_of_stays h]
    rfl

/-! ### The end of an event with the DRAM at work -/

/-- The Sequencer's record without what idle and waking change. -/
def Sequencer.offWake (q : Sequencer) : Sequencer :=
  { q with dram := .ready, idle := false, pdTimer := none, srTimer := none, opTimer := none, kept := [] }

section
variable {q r : Sequencer} (h : r.offWake = q.offWake)
include h
theorem offWake_banks : r.banks = q.banks := (congrArg Sequencer.banks h :)
theorem offWake_debt : r.debt = q.debt := (congrArg Sequencer.debt h :)
theorem offWake_bus : r.bus = q.bus := (congrArg Sequencer.bus h :)
theorem offWake_overruns : r.overruns = q.overruns := (congrArg Sequencer.overruns h :)
theorem offWake_condition : r.condition = q.condition := (congrArg Sequencer.condition h :)
theorem offWake_retEntry : r.retEntry = q.retEntry := (congrArg Sequencer.retEntry h :)
theorem offWake_srRef : r.srRef = q.srRef := (congrArg Sequencer.srRef h :)
theorem offWake_residency : r.residency = q.residency := (congrArg Sequencer.residency h :)
end

theorem wakeForHeads_offWake (s : State) : (wakeForHeads s).seq.offWake = s.seq.offWake := by
  unfold wakeForHeads
  split
  · unfold headsInPowerDown leavePowerDown beginWake
    split
    · rfl
    · split <;> rfl
  · split <;> rfl
  · split <;> rfl
  · rfl

theorem updateIdle_offWake {s : State} (h : idleNow s = false) : (updateIdle s).seq.offWake = s.seq.offWake := by
  cases hidle : s.seq.idle
  · rw [updateIdle_stays h hidle]
  · rw [updateIdle_ends h hidle]
    rfl

/-- With the DRAM at work, idle and the heads change their own fields alone. -/
theorem settled_offWake {s : State} (h : idleNow s = false) :
    (wakeForHeads (updateIdle s)).seq.offWake = s.seq.offWake :=
  (wakeForHeads_offWake _).trans (updateIdle_offWake h)

theorem settled_dram_of_ready {s : State} (h : idleNow s = false) (hd : s.seq.dram = .ready) :
    (wakeForHeads (updateIdle s)).seq.dram = .ready := by
  have hidle := (updateIdle_active h).2.2.1.trans hd
  rw [wakeForHeads_ready hidle, hidle]

theorem settle_offWake_of_not_ready {s : State} (h : s.seq.dram ≠ .ready) : (settle s).seq.offWake = s.seq.offWake := by
  rw [settle, arbiter_of_not_ready h]
  exact settled_offWake (idleNow_eq_false_of_dram h)

theorem settle_offWake_of_busy {s : State} (h : s.seq.bus ≠ .free) : (settle s).seq.offWake = s.seq.offWake := by
  rw [settle, arbiter_of_busy h]
  exact settled_offWake (idleNow_eq_false_of_bus h)

theorem settle_memory (s : State) : (settle s).memory = s.memory := (settle_onlyWork s).offEngine.memory

theorem settle_retEntry (s : State) : (settle s).seq.retEntry = s.seq.retEntry :=
  (congrArg (fun x => x.2.2.2.1) (settle_onlyWork s).standing :)

theorem settle_condition (s : State) : (settle s).seq.condition = s.seq.condition :=
  (congrArg Prod.fst (settle_onlyWork s).standing :)

/-! ### The refresh that the arbiter issues -/

/-- Debt is paid where the run is urgent, or no head is eligible (R123, R125). -/
theorem chooseAmong_refreshes {s : State} (hret : s.seq.retEntry = none) (hdebt : 0 < s.seq.debt)
    (h : s.seq.urgent = true ∨ ∀ p, eligible s p = false) :
    ∃ u, chooseAmong s = issueRefresh (s.setSeq { s.seq with urgent := u }) := by
  rw [chooseAmong, if_neg (by simp [drainOver, hret])]
  split
  · exact ⟨true, rfl⟩
  · next hnot =>
    obtain hurgent | hnone := h
    · simp [hurgent, hdebt] at hnot
    · rw [List.find?_eq_none.mpr fun p _ => by simp [hnone p]]
      exact ⟨s.seq.urgent, rfl⟩

/-- A refresh is in progress, with this debt left. -/
structure Refreshing (d : Nat) (s : State) : Prop where
  bus : s.seq.bus = .refresh
  debt : s.seq.debt = d
  banks : ∀ b : Fin 8, s.seq.banks[b.val] = .closed

theorem Refreshing.of_offWake {d : Nat} {s t : State} (h : Refreshing d s) (hoff : t.seq.offWake = s.seq.offWake) :
    Refreshing d t where
  bus := (offWake_bus hoff).trans h.bus
  debt := (offWake_debt hoff).trans h.debt
  banks b := by rw [offWake_banks hoff]; exact h.banks b

theorem issueRefresh_refreshing {d : Nat} {s : State} (hdebt : s.seq.debt = d + 1) : Refreshing d (issueRefresh s) :=
  ⟨rfl, by simp [issueRefresh, hdebt], allClosed_get⟩

/-- From READY the arbiter issues the next refresh at once, and the event ends with it. -/
theorem settle_refreshes {d : Nat} {s : State} (hdram : s.seq.dram = .ready) (hbus : s.seq.bus = .free)
    (hret : s.seq.retEntry = none) (hdebt : s.seq.debt = d + 1)
    (h : s.seq.urgent = true ∨ ∀ p, s.fifo p = []) :
    (settle s).seq.dram = .ready ∧ Refreshing d (settle s) ∧
      ((∀ p, s.fifo p = []) → (settle s).seq.srRef = s.seq.srRef) := by
  have hoff : (dropBreaches s).seq.offQuiet = s.seq.offQuiet := closed_offQuiet.dropBreaches s
  have hdebt' : (dropBreaches s).seq.debt = d + 1 := (offQuiet_debt hoff).trans hdebt
  obtain ⟨u, hchoose⟩ := chooseAmong_refreshes (s := dropBreaches s) ((offQuiet_retEntry hoff).trans hret)
    (hdebt' ▸ d.succ_pos) (h.imp (fun hu => (congrArg Sequencer.urgent hoff :).trans hu)
      fun hempty p => by rw [dropBreaches_empty hempty]; exact eligible_of_empty (hempty p))
  have harbiter : arbiter s = issueRefresh ((dropBreaches s).setSeq { (dropBreaches s).seq with urgent := u }) :=
    (if_pos (by simp [hdram, hbus])).trans hchoose
  have hready : (arbiter s).seq.dram = .ready := by
    rw [harbiter]
    exact (offQuiet_dram hoff).trans hdram
  have hrefresh : Refreshing d (arbiter s) := by
    rw [harbiter]
    exact issueRefresh_refreshing hdebt'
  have hwork : idleNow (arbiter s) = false := idleNow_eq_false_of_bus (by simp [hrefresh.bus])
  refine ⟨settled_dram_of_ready hwork hready, hrefresh.of_offWake (settled_offWake hwork), fun hempty => ?_⟩
  have hsrRef : (arbiter s).seq.srRef = s.seq.srRef := by
    rw [harbiter, dropBreaches_empty hempty]
    rfl
  exact (offWake_srRef (settled_offWake hwork)).trans hsrRef

/-! ### The Sequencer's debt in an entry -/

theorem payDebt_refreshes {d : Nat} {s : State} {x : EntryPurpose} (hdebt : s.seq.debt = d + 1) :
    payDebt s x = issueRefresh (s.setSeq { s.seq with dram := .enteringSr x .payDebt }) := if_pos (by omega)

theorem payDebt_paid {s : State} {x : EntryPurpose} (hdebt : s.seq.debt = 0) : payDebt s x = finalStep s x :=
  if_neg (by omega)

section
variable {s : State} (hret : s.seq.retEntry = none)
include hret

theorem finalStep_normal (hband : s.thermal.band = .normal) : finalStep s .selfRefresh = enterSelfRefresh s .normal := by
  unfold finalStep
  rw [hret, hband]

theorem finalStep_warm (hband : s.thermal.band = .warm) : finalStep s .selfRefresh = enterSelfRefresh s .extended := by
  unfold finalStep
  rw [hret, hband]

/-- A band that does not permit self refresh ends the entry in READY (R144). -/
theorem finalStep_hot (hband : s.thermal.band = .hot ∨ s.thermal.band = .unknown) : finalStep s .selfRefresh =
    s.setSeq { s.seq with dram := .ready, banks := allClosed, debt := 0, opTimer := none } := by
  unfold finalStep
  rw [hret]
  obtain hband | hband := hband <;> rw [hband]

end

/-- With a retention entry running, the entry ends in RETENTION (R164, R165). -/
theorem finalStep_retains {s : State} {why : RetReason} (x : EntryPurpose) (hwhy : s.seq.retEntry = some why) :
    finalStep s x =
      reachRetention s (if x = .selfRefresh ∧ s.thermal.band = .normal then .normal else .extended) := by
  unfold finalStep
  rw [hwhy]
  cases x
  · simp only [true_and]
  · rfl

theorem settle_seq_of_still {s : State} (h : s.seq.dram.still = true) :
    (settle s).seq.dram = s.seq.dram ∧ (settle s).seq.offWake = s.seq.offWake := by
  rw [settle_still h]
  exact ⟨rfl, rfl⟩

/-- A refresh within an entry goes on to the end of the event. -/
theorem settle_payDebt {d : Nat} {s : State} {x : EntryPurpose} (hdebt : s.seq.debt = d + 1) :
    (settle (payDebt s x)).seq.dram = .enteringSr x .payDebt ∧ Refreshing d (settle (payDebt s x)) ∧
      (settle (payDebt s x)).seq.retEntry = s.seq.retEntry ∧ (settle (payDebt s x)).memory = s.memory := by
  rw [payDebt_refreshes hdebt]
  obtain ⟨hdram, hoff⟩ := settle_seq_of_still
    (s := issueRefresh (s.setSeq { s.seq with dram := .enteringSr x .payDebt })) rfl
  exact ⟨hdram, (issueRefresh_refreshing hdebt).of_offWake hoff, (offWake_retEntry hoff :), settle_memory _⟩

/-! ### The judgement of a range, and RETENTION -/

/-- What marking SUSPECT leaves: all but the condition and what the notices change. -/
theorem markSuspect_offPorts (s : State) : OffPorts (s.setSeq { s.seq with condition := .suspect }) (markSuspect s) := by
  unfold markSuspect
  split
  · next h => rw [← h]; exact .refl s
  · exact postAll_offPorts _ _

theorem judgeRange_within {s : State} {x : Range} (h : beyondRange x s.thermal.band = false) : judgeRange s x = s :=
  if_neg (by simp [h])

/-- The judgement can change the condition, the contents and the notices. -/
theorem judgeRange_leaves (s : State) (x : Range) : ∃ m c,
    OffPorts { s with memory := m, seq := { s.seq with condition := c } } (judgeRange s x) := by
  unfold judgeRange
  split
  · exact ⟨_, _, markSuspect_offPorts { s with memory := s.memory.losingCharge }⟩
  · exact ⟨s.memory, s.seq.condition, .refl s⟩

/-- The DRAM in RETENTION, not yet judged (R165). -/
def inRetention (s : State) (x : Range) : State :=
  s.setSeq { s.seq with
    dram := .retention x (s.seq.retEntry.getD .refLost), banks := allClosed, debt := 0, urgent := false
    bus := .free, opTimer := none, retEntry := none }

theorem reachRetention_away {s : State} (x : Range) (href : s.clock.ref ≠ .locked) :
    reachRetention s x = judgeRange (inRetention s x) x := by
  have hclock : (judgeRange (inRetention s x) x).clock = s.clock := seqClosed_clock.judgeRange _ x
  have hnot : ¬ ((judgeRange (inRetention s x) x).clock.ref = .locked && (judgeRange (inRetention s x) x).isRunning) = true := by
    rw [hclock]
    simp [href]
  exact if_neg hnot

/-- What RETENTION is reached with, away from the reference (R165). -/
structure Retained (s : State) (x : Range) (why : RetReason) (t : State) : Prop where
  dram : t.seq.dram = .retention x why
  retEntry : t.seq.retEntry = none
  debt : t.seq.debt = 0
  bus : t.seq.bus = .free
  banks : ∀ b : Fin 8, t.seq.banks[b.val] = .closed
  hold : t.retentionHold = s.retentionHold
  beyond : beyondRange x s.thermal.band = true → t.seq.condition = .suspect
  within : beyondRange x s.thermal.band = false → t.seq.condition = s.seq.condition ∧ t.memory = s.memory

theorem settle_reachRetention {s : State} {x : Range} {why : RetReason} (href : s.clock.ref ≠ .locked)
    (hwhy : s.seq.retEntry = some why) : Retained s x why (settle (reachRetention s x)) := by
  rw [reachRetention_away x href]
  obtain ⟨m, c, hjudged⟩ := judgeRange_leaves (inRetention s x) x
  have hseq : (judgeRange (inRetention s x) x).seq = { (inRetention s x).seq with condition := c } := hjudged.seq
  have hdram : (judgeRange (inRetention s x) x).seq.dram = .retention x why := by
    rw [hseq]
    simp [inRetention, hwhy]
  obtain ⟨hdram', hoff⟩ := settle_seq_of_still (s := judgeRange (inRetention s x) x) (by rw [hdram]; rfl)
  exact {
    dram := hdram'.trans hdram
    retEntry := (offWake_retEntry hoff).trans (by rw [hseq]; rfl)
    debt := (offWake_debt hoff).trans (by rw [hseq]; rfl)
    bus := (offWake_bus hoff).trans (by rw [hseq]; rfl)
    banks := fun b => by rw [offWake_banks hoff, hseq]; exact allClosed_get b
    hold := (settle_onlyWork _).offEngine.retentionHold.trans (congrArg State.retentionHold hjudged :)
    beyond := fun h => (offWake_condition hoff).trans (by
      rw [judgeRange, if_pos (show beyondRange x (inRetention s x).thermal.band = true from h)]
      exact markSuspect_condition _)
    within := fun h => by
      rw [offWake_condition hoff, settle_memory, judgeRange_within (s := inRetention s x) h]
      exact ⟨rfl, rfl⟩ }

/-! ### Idle that stays -/

/-- The self refresh timer does not expire at an idle start: the band does not permit it, or the timer is off, or its
deadline lies ahead (R142). -/
def Lingers (s : State) : Prop :=
  s.thermal.band.cool = false ∨ ms s.params.srIdleMs = 0 ∨ ∀ r, s.seq.srRef = some r → s.now < r + ms s.params.srIdleMs

theorem bandPermits_eq_cool (s : State) : bandPermits s = s.thermal.band.cool := by
  unfold bandPermits
  cases s.thermal.band <;> rfl

/-- Such an idle start changes the idle flag and its timers alone. -/
theorem startIdle_lingers {s : State} (h : Lingers s) : ∃ pd sr,
    startIdle s = s.setSeq { s.seq with idle := true, pdTimer := pd, srTimer := sr } := by
  unfold startIdle
  dsimp only
  split
  · exact ⟨_, _, rfl⟩
  · next r hr =>
    split
    · exact ⟨_, _, rfl⟩
    · next hon =>
      split
      · next hpast =>
        obtain hcool | hoff | hahead := h
        · exact ⟨_, _, if_neg (by rw [bandPermits_eq_cool]; exact Bool.eq_false_iff.mp hcool)⟩
        · exact absurd hoff hon
        · exact absurd hpast (Nat.not_le.mpr (hahead r hr))
      · exact ⟨_, _, rfl⟩

theorem updateIdle_lingers {s : State} (h : Lingers s) : ∃ i pd sr,
    updateIdle s = s.setSeq { s.seq with idle := i, pdTimer := pd, srTimer := sr } ∧ (idleNow s = true → i = true) := by
  unfold updateIdle
  split
  · split
    · next hset => exact ⟨s.seq.idle, s.seq.pdTimer, s.seq.srTimer, rfl, fun _ => hset⟩
    · obtain ⟨pd, sr, hstart⟩ := startIdle_lingers h
      exact ⟨true, pd, sr, hstart, fun _ => rfl⟩
  · next hnot =>
    split
    · exact ⟨false, none, none, rfl, fun hidle => absurd hidle hnot⟩
    · exact ⟨s.seq.idle, s.seq.pdTimer, s.seq.srTimer, rfl, fun hidle => absurd hidle hnot⟩

/-- READY and idle at the end of an event. -/
theorem settle_lingers {s : State} (hidle : idleNow s = true) (hempty : ∀ p, s.fifo p = []) (h : Lingers s) :
    ∃ pd sr, settle s = s.setSeq { s.seq with idle := true, pdTimer := pd, srTimer := sr } := by
  obtain ⟨i, pd, sr, hupdate, hset⟩ := updateIdle_lingers h
  obtain rfl := hset hidle
  simp only [idleNow, Bool.and_eq_true, decide_eq_true_eq] at hidle
  obtain ⟨⟨⟨⟨hdram, -⟩, hdebt⟩, -⟩, -⟩ := hidle
  refine ⟨pd, sr, ?_⟩
  rw [settle, arbiter_empty hempty hdebt, hupdate]
  exact wakeForHeads_ready hdram

theorem anyEligible_empty {s : State} (h : ∀ p, s.fifo p = []) : anyEligible s = false :=
  List.any_eq_false.mpr fun p _ => by simp [eligible_of_empty (h p)]

theorem idleNow_of_empty {s : State} (hdram : s.seq.dram = .ready) (hbus : s.seq.bus = .free) (hdebt : s.seq.debt = 0)
    (hret : s.seq.retEntry = none) (hempty : ∀ p, s.fifo p = []) : idleNow s = true := by
  simp [idleNow, hdram, hbus, hdebt, hret, anyEligible_empty hempty]

/-- In SELF_REFRESH the end of an event with no head eligible ends idle, and that is all. -/
theorem settle_asleep {s : State} {x : Range} (hd : s.seq.dram = .selfRefresh x) (h : ∀ p, s.fifo p = []) :
    (settle s).seq.dram = .selfRefresh x := by
  have hready : s.seq.dram ≠ .ready := by simp [hd]
  obtain ⟨hports, hregions, hdram, -⟩ := updateIdle_active (idleNow_eq_false_of_dram hready)
  have hnone : anyEligible (updateIdle s) = false := anyEligible_empty fun p => by rw [fifo_congr hports, h]
  rw [settle, arbiter_of_not_ready hready, wakeForHeads, hdram, hd]
  dsimp only
  rw [if_neg (by simp [hnone]), hdram, hd]

/-! ### A drain that is over -/

theorem anyStarted_eq_false_iff {s : State} : anyStarted s = false ↔ ∀ p, ∀ e ∈ s.fifo p, e.started = false := by
  simp only [anyStarted, hasStarted, List.any_eq_false, Bool.not_eq_true]
  exact ⟨fun h p e he => h p (mem_allPorts p) e he, fun h p _ e he => h p e he⟩

theorem dropFrom_subset (p : Port) : ∀ (l : List Entry) (s : State), s.fifo p = l →
    ∀ q, ∀ e ∈ (dropFrom p l s).fifo q, e ∈ s.fifo q
  | [], _, _, _, _, he => he
  | x :: l, s, hl, q, e, he => by
    rw [dropFrom] at he
    split at he
    · have hin := dropFrom_subset p l _ (by simp) q e he
      rw [endEntry_fifo] at hin
      by_cases hq : q = p
      · subst hq
        rw [fifo_setFifo_self] at hin
        exact hl ▸ List.mem_cons_of_mem x hin
      · rwa [fifo_setFifo_ne s p l hq] at hin
    · exact he

theorem dropBreaches_subset (s : State) (q : Port) : ∀ e ∈ (dropBreaches s).fifo q, e ∈ s.fifo q := by
  have hfold : ∀ (ps : List Port) (t : State), ∀ e ∈ (ps.foldl (fun t p => dropFrom p (t.fifo p) t) t).fifo q,
      e ∈ t.fifo q := by
    intro ps
    induction ps with
    | nil => exact fun _ _ he => he
    | cons p ps ih => exact fun t e he => dropFrom_subset p _ t rfl q e (ih _ e he)
  exact hfold allPorts s

/-- A drain that is over grants and refreshes nothing more (R165). -/
theorem settle_drained {s : State} (hdram : s.seq.dram = .ready) (hret : s.seq.retEntry ≠ none)
    (hnone : anyStarted s = false) :
    (settle s).seq.dram = .ready ∧ (settle s).seq.bus = s.seq.bus ∧ (settle s).seq.debt = s.seq.debt := by
  have hoff : (dropBreaches s).seq.offQuiet = s.seq.offQuiet := closed_offQuiet.dropBreaches s
  have hdrained : chooseAmong (dropBreaches s) = dropBreaches s := by
    have hnone' : anyStarted (dropBreaches s) = false := anyStarted_eq_false_iff.mpr fun p e he =>
      anyStarted_eq_false_iff.mp hnone p e (dropBreaches_subset s p e he)
    have hret' : (dropBreaches s).seq.retEntry ≠ none := by rwa [offQuiet_retEntry hoff]
    exact if_pos (by simp [drainOver, hnone', Option.isSome_iff_ne_none, hret'])
  have harbiter : (arbiter s).seq.offQuiet = s.seq.offQuiet := by
    unfold arbiter
    split
    · rw [hdrained, hoff]
    · rfl
  have hret' : (arbiter s).seq.retEntry ≠ none := by rwa [offQuiet_retEntry harbiter]
  have hwork : idleNow (arbiter s) = false := by simp [idleNow, hret']
  have hend := settled_offWake hwork
  exact ⟨settled_dram_of_ready hwork ((offQuiet_dram harbiter).trans hdram),
    (offWake_bus hend).trans (offQuiet_bus harbiter), (offWake_debt hend).trans (offQuiet_debt harbiter)⟩

/-! ### REFRESH_COMPLETE -/

/-- The state in which a refresh has completed at a moment. -/
def refreshed (s : State) (n : Nat) : State :=
  { s with
    now := n
    seq := { s.seq with opTimer := none, bus := .free, urgent := s.seq.urgent && decide (0 < s.seq.debt) } }

theorem exec_refreshComplete {s : State} (hbus : s.seq.bus = .refresh) : ∃ n,
    (s.seq.dram = .ready → exec .refreshComplete s = .next (settle (refreshed s n))) ∧
      (∀ x, s.seq.dram = .enteringSr x .payDebt → exec .refreshComplete s = .next (settle (payDebt (refreshed s n) x))) ∧
      (s.seq.dram = .initializing .awaitRefresh → exec .refreshComplete s = .next (startInit (refreshed s n))) := by
  obtain ⟨n, hend⟩ := endOp_stays (startDue_of_busy (s := s) (by simp [hbus]))
  have hexec : exec .refreshComplete s = execRefreshComplete s := rfl
  rw [hexec, execRefreshComplete, if_pos hbus, hend]
  refine ⟨n, fun hd => ?_, fun x hd => ?_, fun hd => ?_⟩
  all_goals simp only [State.setSeq, refreshed, hd]

/-- Settles O52: the arbiter, the entry or init goes on from the refresh that has completed. -/
theorem refreshesPayTheDebt : Obligations.RefreshesPayTheDebt := by
  intro s hbus
  obtain ⟨n, hready, hentry, hinit⟩ := exec_refreshComplete hbus
  refine ⟨fun d hret hd hdebt hnext => ?_, fun d x hd hdebt => ?_, fun hret hd hdebt hempty => ?_,
    fun hret hd hnone => ?_, fun why x range hwhy hd hdebt href hrange => ?_, fun hd => ?_⟩
  · have hurgent : (refreshed s n).seq.urgent = true ∨ ∀ p, (refreshed s n).fifo p = [] :=
      hnext.imp (fun hu => by simp [refreshed, hu, hdebt]) id
    obtain ⟨hdram, hrefresh, -⟩ := settle_refreshes (s := refreshed s n) hd rfl hret hdebt hurgent
    exact ⟨_, hready hd, hdram, hrefresh.bus, hrefresh.debt, hrefresh.banks, (settle_onlyWork _).regions,
      settle_memory _⟩
  · obtain ⟨hdram, hrefresh, hret, -⟩ := settle_payDebt (s := refreshed s n) (x := x) hdebt
    exact ⟨_, hentry x hd, hdram, hrefresh.bus, hrefresh.debt, hret⟩
  · have hfinal : payDebt (refreshed s n) .selfRefresh = finalStep (refreshed s n) .selfRefresh := payDebt_paid hdebt
    have hexec := hentry _ hd
    rw [hfinal] at hexec
    refine ⟨fun hband => ?_, fun hband => ?_, fun hband => ?_⟩
    · rw [finalStep_normal (s := refreshed s n) hret hband] at hexec
      exact ⟨_, hexec, settle_asleep (x := .normal) rfl hempty, settle_memory _⟩
    · rw [finalStep_warm (s := refreshed s n) hret hband] at hexec
      exact ⟨_, hexec, settle_asleep (x := .extended) rfl hempty, settle_memory _⟩
    · rw [finalStep_hot (s := refreshed s n) hret hband] at hexec
      have hcool : s.thermal.band.cool = false := by obtain hband | hband := hband <;> rw [hband] <;> rfl
      obtain ⟨pd, sr, hsettle⟩ := settle_lingers (s := (refreshed s n).setSeq { (refreshed s n).seq with
          dram := .ready, banks := allClosed, debt := 0, opTimer := none })
        (idleNow_of_empty rfl rfl rfl hret hempty) hempty (.inl hcool)
      refine ⟨_, hexec, ?_⟩
      rw [hsettle]
      exact ⟨rfl, rfl, allClosed_get⟩
  · obtain ⟨hdram, hfree, hdebt⟩ := settle_drained (s := refreshed s n) hd hret hnone
    exact ⟨_, hready hd, hdram, hfree, hdebt, settle_retEntry _, settle_memory _⟩
  · have hfinal : payDebt (refreshed s n) x = reachRetention (refreshed s n) range := by
      rw [payDebt_paid (s := refreshed s n) hdebt, finalStep_retains (s := refreshed s n) x hwhy, hrange]
      rfl
    have hretained := settle_reachRetention (s := refreshed s n) (x := range) href hwhy
    rw [← hfinal] at hretained
    refine ⟨_, hentry x hd, hretained.dram, hretained.retEntry, hretained.debt, hretained.bus, hretained.banks,
      hretained.hold, fun hhot => ?_, fun hcool => hretained.within ?_⟩
    · refine hretained.beyond ?_
      rw [show (refreshed s n).thermal.band = .hot from hhot]
      cases range <;> rfl
    · show beyondRange range s.thermal.band = false
      rw [hrange]
      cases x <;> cases hband : s.thermal.band <;> simp_all [beyondRange]
  · exact ⟨_, hinit hd, rfl, rfl, rfl, allClosed_get, rfl⟩

end Sys2Proof.Machine
end

section
/-! PROOFS. The ticks (R127, R128, R141), the idle timers (R138, R139, R142), and the ends of exits, closings and wakes
(R140, R143, R149, R169). -/

namespace Sys2Proof.Machine

/-! ### A DRAM at work -/

/-- The DRAM is not READY, or the bus is taken: no start is due, and the arbiter does not act. -/
def AtWork (s : State) : Prop := s.seq.dram ≠ .ready ∨ s.seq.bus ≠ .free

theorem AtWork.startDue {s : State} (h : AtWork s) : startDue s = s := h.elim startDue_of_not_ready startDue_of_busy

theorem AtWork.settle_offWake {s : State} (h : AtWork s) : (settle s).seq.offWake = s.seq.offWake :=
  h.elim settle_offWake_of_not_ready settle_offWake_of_busy

/-! ### REFRESH_TICK -/

theorem raiseDebt_below {s : State} (h : s.seq.debt < 8) :
    raiseDebt s = s.setSeq { s.seq with debt := s.seq.debt + 1 } := if_neg (by omega)

theorem raiseDebt_overrun {s : State} (h : 8 ≤ s.seq.debt) : ∃ m, OffPorts { s with
    memory := m
    seq := { s.seq with overruns := min 65535 (s.seq.overruns + 1), condition := .suspect } } (raiseDebt s) := by
  rw [raiseDebt, if_pos h, overrun]
  dsimp only
  have hposted := postSupervisor_offPorts { s with
    memory := s.memory.losingCharge
    seq := { s.seq with overruns := min 65535 (s.seq.overruns + 1) } } (.fault .refreshOverrun)
  have hmarked := markSuspect_offPorts (postSupervisor { s with
    memory := s.memory.losingCharge
    seq := { s.seq with overruns := min 65535 (s.seq.overruns + 1) } } (.fault .refreshOverrun))
  rw [hposted.seq] at hmarked
  exact ⟨s.memory.losingCharge, (hposted.setSeq { s.seq with
    overruns := min 65535 (s.seq.overruns + 1), condition := .suspect }).trans hmarked⟩

theorem pdCause_offWake (s : State) (c : PdCause) : (pdCause s c).seq.offWake = s.seq.offWake := by
  unfold pdCause actPdCause leavePowerDown beginWake
  repeat' split
  all_goals rfl

theorem pdCause_now (s : State) (c : PdCause) : (pdCause s c).now = s.now := by
  unfold pdCause actPdCause leavePowerDown beginWake
  repeat' split
  all_goals rfl

theorem raiseDebt_time (s : State) : (raiseDebt s).now = s.now ∧ (raiseDebt s).seq.tick = s.seq.tick := by
  by_cases h : s.seq.debt < 8
  · rw [raiseDebt_below h]
    exact ⟨rfl, rfl⟩
  · obtain ⟨m, hoff⟩ := raiseDebt_overrun (Nat.not_lt.mp h)
    exact ⟨hoff.now, (congrArg Sequencer.tick hoff.seq :)⟩

theorem tickPowerDown_offWake (s : State) :
    (tickPowerDown s).now = s.now ∧ (tickPowerDown s).seq.offWake = s.seq.offWake := by
  unfold tickPowerDown
  split
  · exact ⟨pdCause_now s _, pdCause_offWake s _⟩
  · exact ⟨rfl, rfl⟩

theorem tickDebt_time (s : State) : (tickDebt s).now = s.now ∧ (tickDebt s).seq.tick = s.seq.tick := by
  unfold tickDebt
  split
  · exact raiseDebt_time s
  · exact raiseDebt_time s
  · obtain ⟨hnow, hoff⟩ := tickPowerDown_offWake (raiseDebt s)
    obtain ⟨hnow', htick⟩ := raiseDebt_time s
    exact ⟨hnow.trans hnow', (congrArg Sequencer.tick hoff :).trans htick⟩
  all_goals exact ⟨rfl, rfl⟩

theorem tickPowerDown_high {s : State} (h : s.params.refreshHighWater ≤ s.seq.debt) :
    tickPowerDown s = pdCause s .highWater := if_pos h

theorem tickPowerDown_low {s : State} (h : ¬ s.params.refreshHighWater ≤ s.seq.debt) : tickPowerDown s = s := if_neg h

theorem settle_tick (s : State) : (settle s).seq.tick = s.seq.tick :=
  (congrArg (fun x => x.2.2.2.2) (settle_onlyWork s).standing :)

theorem settle_now (s : State) : (settle s).now = s.now := (settle_onlyWork s).offEngine.now

/-- The state at a tick's moment, with the next period begun (R127). -/
def ticked (s : State) : State :=
  (s.reach s.seq.tick.deadline).setSeq { (s.reach s.seq.tick.deadline).seq with
    tick := (s.reach s.seq.tick.deadline).timer (refreshPeriod s.thermal.band) }

theorem exec_refreshTick (s : State) : exec .refreshTick s = .next (settle (tickDebt (ticked s))) := by
  have hexec : exec .refreshTick s = execRefreshTick s := rfl
  rw [hexec, execRefreshTick, reach_thermal]
  rfl

/-- Where no start is due, a tick's moment changes the tick alone. -/
theorem AtWork.ticked {s : State} (h : AtWork s) :
    (ticked s).seq = { s.seq with tick := (ticked s).seq.tick } ∧ (ticked s).ports = s.ports := by
  rw [Machine.ticked, reach_of_stays h.startDue]
  exact ⟨rfl, rfl⟩

/-- A tick that raises the debt, with nothing that the end of the event starts (R127, R128). -/
theorem settle_raiseDebt {s : State} (h : AtWork s) :
    (s.seq.debt < 8 → (settle (raiseDebt s)).seq.debt = s.seq.debt + 1 ∧ (settle (raiseDebt s)).memory = s.memory ∧
      (settle (raiseDebt s)).seq.overruns = s.seq.overruns ∧ (settle (raiseDebt s)).seq.condition = s.seq.condition) ∧
    (s.seq.debt = 8 → (settle (raiseDebt s)).seq.debt = 8 ∧
      (settle (raiseDebt s)).seq.overruns = min 65535 (s.seq.overruns + 1) ∧
      (settle (raiseDebt s)).seq.condition = .suspect) := by
  refine ⟨fun hdebt => ?_, fun hdebt => ?_⟩
  · rw [raiseDebt_below hdebt]
    have hoff := AtWork.settle_offWake (s := s.setSeq { s.seq with debt := s.seq.debt + 1 }) h
    exact ⟨offWake_debt hoff, settle_memory _, (offWake_overruns hoff :), (offWake_condition hoff :)⟩
  · obtain ⟨m, hraised⟩ := raiseDebt_overrun (Nat.le_of_eq hdebt.symm)
    have hseq := hraised.seq
    have hwork : AtWork (raiseDebt s) := by
      unfold AtWork
      rw [hseq]
      exact h
    have hoff := hwork.settle_offWake
    exact ⟨(offWake_debt hoff).trans (by rw [hseq]; exact hdebt), (offWake_overruns hoff).trans (by rw [hseq]),
      (offWake_condition hoff).trans (by rw [hseq])⟩

theorem tickDebt_idle {s : State} (h : (∃ x, s.seq.dram = .selfRefresh x) ∨ (∃ x y, s.seq.dram = .retention x y) ∨
    (∃ x y, s.seq.dram = .enteringSr x y) ∨ s.seq.dram = .uninitialized ∨ s.seq.dram = .failed ∨
      ∃ x, s.seq.dram = .initializing x) : tickDebt s = s ∧ s.seq.dram ≠ .ready := by
  unfold tickDebt
  obtain ⟨x, h⟩ | ⟨x, y, h⟩ | ⟨x, y, h⟩ | h | h | ⟨x, h⟩ := h <;> simp [h]

theorem settle_powerDown {s : State} {k : PdKind} (hd : s.seq.dram = .powerDown k) (hres : s.seq.residency = none)
    (h : ∀ p, s.fifo p = []) : (settle s).seq.dram = .powerDown k := by
  have hready : s.seq.dram ≠ .ready := by simp [hd]
  obtain ⟨hports, -, hdram, hresidency⟩ := updateIdle_active (idleNow_eq_false_of_dram hready)
  have hnone : anyEligible (updateIdle s) = false := anyEligible_empty fun p => by rw [fifo_congr hports, h]
  rw [settle, arbiter_of_not_ready hready, wakeForHeads, hdram, hd]
  dsimp only
  rw [headsInPowerDown, hresidency, hres]
  simp [hnone, hdram, hd]

/-- Settles O53: the time of the tick in every state; the debt by the DRAM state. -/
theorem ticksRaiseTheDebt : Obligations.TicksRaiseTheDebt := by
  refine ⟨fun s => ?_, fun s k hd hres hdebt hempty => ?_⟩
  · have hexec := exec_refreshTick s
    have hkeeps : KeepsRest s (settle (tickDebt (ticked s))) :=
      seqClosed_keepsRest.exec_sequencer (c := .refreshTick) rfl (by simp) (by simp) (by simp) (by simp) s _ hexec
    obtain ⟨hnow, htick⟩ := tickDebt_time (ticked s)
    have hnow' := (settle_now _).trans hnow
    have htick' := (settle_tick _).trans htick
    refine ⟨_, hexec, hnow', ?_, ?_, (congrArg State.regions hkeeps.rest :), (congrArg State.params hkeeps.rest :),
      fun hraise => ?_, fun hrest => ?_⟩
    · rw [htick']
      show refreshPeriod s.thermal.band = _
      cases s.thermal.band <;> rfl
    · rw [htick', hnow']
      rfl
    · have hwork : AtWork s := by
        obtain ⟨-, hbus⟩ | ⟨x, y, hd⟩ := hraise
        · exact .inr hbus
        · exact .inl (by simp [hd])
      obtain ⟨hseq, -⟩ := hwork.ticked
      have hdram : (ticked s).seq.dram = s.seq.dram := (congrArg Sequencer.dram hseq :)
      have hraised : tickDebt (ticked s) = raiseDebt (ticked s) := by
        rw [tickDebt, hdram]
        obtain ⟨hd, -⟩ | ⟨x, y, hd⟩ := hraise <;> simp only [hd]
      have hworks : AtWork (ticked s) := by
        rw [AtWork, hseq]
        exact hwork
      have hraises := settle_raiseDebt hworks
      rw [show (ticked s).seq.debt = s.seq.debt from (congrArg Sequencer.debt hseq :),
        show (ticked s).seq.overruns = s.seq.overruns from (congrArg Sequencer.overruns hseq :),
        show (ticked s).seq.condition = s.seq.condition from (congrArg Sequencer.condition hseq :),
        show (ticked s).memory = s.memory from reach_memory s _] at hraises
      rwa [hraised]
    · have hwork : AtWork s := .inl (tickDebt_idle hrest).2
      obtain ⟨hseq, -⟩ := hwork.ticked
      have hdram : (ticked s).seq.dram = s.seq.dram := (congrArg Sequencer.dram hseq :)
      rw [← hdram] at hrest
      obtain ⟨hnothing, hready⟩ := tickDebt_idle hrest
      rw [hnothing]
      have hoff := settle_offWake_of_not_ready hready
      rw [hseq] at hoff
      exact ⟨(offWake_debt hoff :), (offWake_overruns hoff :), (settle_memory _).trans (reach_memory s _)⟩
  · have hwork : AtWork s := .inl (by simp [hd])
    obtain ⟨hseq, hports⟩ := hwork.ticked
    have hd' : (ticked s).seq.dram = .powerDown k := (congrArg Sequencer.dram hseq :).trans hd
    have hdebt' : (ticked s).seq.debt = s.seq.debt := (congrArg Sequencer.debt hseq :)
    have hres' : (ticked s).seq.residency = none := (congrArg Sequencer.residency hseq :).trans hres
    have hempty' : ∀ p, (ticked s).fifo p = [] := fun p => (fifo_congr hports p).trans (hempty p)
    have hparams : (ticked s).params = s.params := reach_params s _
    have hexec := exec_refreshTick s
    have htick : tickDebt (ticked s) =
        tickPowerDown ((ticked s).setSeq { (ticked s).seq with debt := (ticked s).seq.debt + 1 }) := by
      rw [tickDebt, hd', ← raiseDebt_below (s := ticked s) (by omega)]
    rw [htick] at hexec
    have hdebt'' : ((ticked s).setSeq { (ticked s).seq with debt := (ticked s).seq.debt + 1 }).seq.debt
        = s.seq.debt + 1 := congrArg (· + 1) hdebt'
    by_cases hwater : s.params.refreshHighWater ≤ s.seq.debt + 1
    · rw [tickPowerDown_high (by rw [hdebt'']; exact hparams ▸ hwater)] at hexec
      have hwakes := pdCause_highWater_wakes
        (s := (ticked s).setSeq { (ticked s).seq with debt := (ticked s).seq.debt + 1 }) hd' hres'
      obtain ⟨hdram, hoff⟩ := settle_seq_of_still (s := pdCause
        ((ticked s).setSeq { (ticked s).seq with debt := (ticked s).seq.debt + 1 }) .highWater) (by rw [hwakes]; rfl)
      exact ⟨_, hexec, (offWake_debt hoff).trans ((offWake_debt (pdCause_offWake _ _)).trans hdebt''),
        fun _ => hdram.trans hwakes, fun hlow => absurd hwater (Nat.not_le.mpr hlow)⟩
    · rw [tickPowerDown_low (by rw [hdebt'']; exact hparams ▸ hwater)] at hexec
      have hoff := AtWork.settle_offWake
        (s := (ticked s).setSeq { (ticked s).seq with debt := (ticked s).seq.debt + 1 }) (.inl (by simp [hd']))
      exact ⟨_, hexec, (offWake_debt hoff).trans hdebt'', fun hhigh => absurd hhigh hwater, fun _ =>
        settle_powerDown (s := (ticked s).setSeq { (ticked s).seq with debt := (ticked s).seq.debt + 1 }) hd' hres'
          hempty'⟩

/-! ### The idle timers -/

theorem keptHeads_empty {s : State} (hkept : s.seq.kept = []) (h : ∀ p, s.fifo p = []) : keptHeads s = [] := by
  have hcause : ∀ p, headCause s p = none := fun p => by simp [headCause, eligible_of_empty (h p)]
  simp [keptHeads, hkept, hcause]

/-- A power-down just entered, with nothing to wake it, stands at the end of the event. -/
theorem settle_entered {s : State} {k : PdKind} (hd : s.seq.dram = .powerDown k) (hres : s.seq.residency.isSome = true)
    (hidle : s.seq.idle = false) (hkept : s.seq.kept = []) (h : ∀ p, s.fifo p = []) : settle s = s := by
  have hready : s.seq.dram ≠ .ready := by simp [hd]
  rw [settle, arbiter_of_not_ready hready, updateIdle_stays (idleNow_eq_false_of_dram hready) hidle]
  simp only [wakeForHeads, hd, headsInPowerDown, hres, if_true, keptHeads_empty hkept h]
  rw [← hkept, ← hd]
  rfl

theorem anyBankOpen_congr {q r : Sequencer} (h : r.banks = q.banks) : anyBankOpen r = anyBankOpen q := by
  rw [anyBankOpen, h, anyBankOpen]

theorem pdCause_acts {s : State} {k : PdKind} (c : PdCause) (hd : s.seq.dram = .powerDown k)
    (hres : s.seq.residency = none) : pdCause s c = actPdCause s k c := by
  simp only [pdCause, hd, hres]
  rfl

/-- A band that permits self refresh begins the entry with the exit of the power-down kind (R142, R143). -/
theorem actPdCause_srExpiry {s : State} (k : PdKind) (hcool : s.thermal.band.cool = true) :
    actPdCause s k .srExpiry = s.setSeq { s.seq with
      dram := .enteringSr .selfRefresh (.leavePowerDown k), opTimer := opTimer s (pdExitNs k), srTimer := none } :=
  if_pos ((bandPermits_eq_cool s).trans hcool)

theorem actPdCause_srExpiry_not {s : State} (k : PdKind) (hcool : s.thermal.band.cool = false) :
    actPdCause s k .srExpiry = s := if_neg (by simp [bandPermits_eq_cool, hcool])

theorem srExpiryIdle_closes {s : State} (hcool : s.thermal.band.cool = true) (hopen : anyBankOpen s.seq = true) :
    srExpiryIdle s = s.setSeq { s.seq with
      dram := .enteringSr .selfRefresh .closeBanks, idle := false, pdTimer := none, srTimer := none
      opTimer := opTimer s 15 } :=
  (if_pos ((bandPermits_eq_cool s).trans hcool)).trans (if_pos hopen)

theorem exec_srTimerExpiry {s : State} {x : Timer} (hx : s.seq.srTimer = some x) (hstays : startDue s = s) :
    (s.seq.dram = .ready →
      exec .srTimerExpiry s = .next (settle (srExpiryIdle { s with now := max s.now x.deadline }))) ∧
    ∀ k, s.seq.dram = .powerDown k → exec .srTimerExpiry s = .next
      (pdCause ({ s with now := max s.now x.deadline }.setSeq { s.seq with srTimer := none }) .srExpiry) := by
  have hexec : exec .srTimerExpiry s = execSrTimerExpiry s := rfl
  rw [hexec, execSrTimerExpiry, hx]
  dsimp only
  rw [reach_of_stays hstays]
  exact ⟨fun hd => by simp only [hd], fun k hd => by simp only [hd]⟩

/-- Settles O54: the idle DRAM enters power-down, and leaves it or READY for self refresh. -/
theorem idleDramPowersDown : Obligations.IdleDramPowersDown := by
  refine ⟨fun s x hx hd hempty => ?_, fun s x hx => ⟨fun k hd hres => ?_, fun hd hnone hcool hopen => ?_⟩⟩
  · have hreach := reach_of_stays (startDue_of_none (anyEligible_empty hempty)) x.deadline
    have hexec : exec .pdTimerExpiry s = execPdTimerExpiry s := rfl
    rw [execPdTimerExpiry, hx] at hexec
    dsimp only at hexec
    rw [if_pos hd, hreach] at hexec
    have hsettle := settle_entered (s := { s with now := max s.now x.deadline }.setSeq { s.seq with
      dram := .powerDown (pdKindAtEntry { s with now := max s.now x.deadline }), idle := false, pdTimer := none
      residency := some (State.timer { s with now := max s.now x.deadline } 30), kept := [] }) rfl rfl rfl rfl hempty
    rw [hsettle] at hexec
    refine ⟨_, hexec, rfl, ?_, rfl, rfl, rfl, rfl, rfl⟩
    show DramState.powerDown (if anyBankOpen s.seq then .active
      else match s.params.pdExit with | .fast => .prechargeFast | .slow => .prechargeSlow) = _
    cases s.params.pdExit <;> rfl
  · have hexec := (exec_srTimerExpiry hx (startDue_of_not_ready (by simp [hd]))).2 k hd
    have hacts := pdCause_acts (s := { s with now := max s.now x.deadline }.setSeq { s.seq with srTimer := none })
      .srExpiry hd hres
    rw [hacts] at hexec
    refine ⟨fun hcool => ?_, fun hcool => ?_⟩
    · rw [actPdCause_srExpiry k (by exact hcool)] at hexec
      exact ⟨_, hexec, rfl, rfl, rfl, rfl⟩
    · rw [actPdCause_srExpiry_not k (by exact hcool)] at hexec
      exact ⟨_, hexec, hd, rfl, rfl⟩
  · have hexec := (exec_srTimerExpiry hx (startDue_of_none hnone)).1 hd
    rw [srExpiryIdle_closes (s := { s with now := max s.now x.deadline }) hcool hopen] at hexec
    obtain ⟨hdram, hoff⟩ := settle_seq_of_still (s := { s with now := max s.now x.deadline }.setSeq { s.seq with
      dram := .enteringSr .selfRefresh .closeBanks, idle := false, pdTimer := none, srTimer := none
      opTimer := opTimer { s with now := max s.now x.deadline } 15 }) rfl
    refine ⟨_, hexec, hdram, ?_, offWake_debt hoff, settle_memory _⟩
    rw [settle_still rfl]
    rfl

end Sys2Proof.Machine
end

section
/-! PROOFS. The ends of exits, closings and wakes (R139, R140, R143, R149, R169), and of init (R129 to R131). -/

namespace Sys2Proof.Machine

/-! ### PD_RESIDENCY_END -/

/-- The DRAM in POWER_DOWN at the end of its minimum residency (R139). -/
def residencyOver (s : State) (x : Timer) : State :=
  { s with now := max s.now x.deadline, seq := { s.seq with residency := none, kept := [] } }

theorem exec_pdResidencyEnd {s : State} {x : Timer} (hx : s.seq.residency = some x) (hready : s.seq.dram ≠ .ready) :
    (∀ k, s.seq.dram = .powerDown k →
      exec .pdResidencyEnd s = .next (settle (retainPowerDown (s.seq.kept.foldl takeKept (residencyOver s x))))) ∧
    ∀ k, s.seq.dram = .initializing (.residency k) → exec .pdResidencyEnd s = .next
      ((residencyOver s x).setSeq { (residencyOver s x).seq with
        dram := .initializing (.leavePowerDown k), opTimer := opTimer (residencyOver s x) (pdExitNs k) }) := by
  have hexec : exec .pdResidencyEnd s = execPdResidencyEnd s := rfl
  rw [hexec, execPdResidencyEnd, hx]
  dsimp only
  rw [reach_of_stays (startDue_of_not_ready hready)]
  refine ⟨fun k hd => ?_, fun k hd => ?_⟩
  · simp only [residencyOver, State.setSeq, hd]
  · simp only [residencyOver, State.setSeq, hd]

theorem takeKept_away {s : State} (h : ∀ k, s.seq.dram ≠ .powerDown k) :
    ∀ l : List PdCause, l.foldl takeKept s = s
  | [] => rfl
  | c :: l => by
    have hc : takeKept s c = s := by
      unfold takeKept
      split
      · next k hd => exact absurd hd (h k)
      · rfl
    rw [List.foldl_cons, hc]
    exact takeKept_away h l

theorem takeKept_holds {s : State} {k : PdKind} {c : PdCause} (hd : s.seq.dram = .powerDown k)
    (hc : causeHolds s c = true) : takeKept s c = actPdCause s k c := by
  simp only [takeKept, hd, hc, if_true]

theorem takeKept_gone {s : State} {k : PdKind} {c : PdCause} (hd : s.seq.dram = .powerDown k)
    (hc : causeHolds s c = false) : takeKept s c = s := by
  simp only [takeKept, hd, hc, Bool.false_eq_true, if_false]

theorem retainPowerDown_away {s : State} (h : ∀ k, s.seq.dram ≠ .powerDown k) : retainPowerDown s = s := by
  unfold retainPowerDown
  split
  · next k hd => exact absurd hd (h k)
  · rfl

theorem powerDown_of_still {s : State} (h : s.seq.dram.still = true) (k : PdKind) : s.seq.dram ≠ .powerDown k := by
  intro hd
  rw [hd] at h
  cases h

/-- A first kept cause that holds and brings the DRAM into a state that no head wakes determines the exit. -/
theorem residencyEnd_acts {s : State} {x : Timer} {k : PdKind} {c : PdCause} {more : List PdCause}
    (hx : s.seq.residency = some x) (hd : s.seq.dram = .powerDown k) (hkept : s.seq.kept = c :: more)
    (hc : causeHolds (residencyOver s x) c = true)
    (hstill : (actPdCause (residencyOver s x) k c).seq.dram.still = true) :
    ∃ t, exec .pdResidencyEnd s = .next t ∧ t.seq.dram = (actPdCause (residencyOver s x) k c).seq.dram ∧
      t.seq.offWake = (actPdCause (residencyOver s x) k c).seq.offWake := by
  have hexec := (exec_pdResidencyEnd hx (by simp [hd])).1 k hd
  rw [hkept, List.foldl_cons, takeKept_holds (s := residencyOver s x) hd hc,
    takeKept_away (powerDown_of_still hstill), retainPowerDown_away (powerDown_of_still hstill)] at hexec
  exact ⟨_, hexec, settle_seq_of_still hstill⟩

theorem leavePowerDown_offWake (s : State) (k : PdKind) : (leavePowerDown s k).seq.offWake = s.seq.offWake := rfl

/-! ### Exits, closings and wakes -/

theorem exec_pdExitComplete {s t : State} (hend : endOp s = t) :
    (∀ a k, s.seq.dram = .waking a (.powerDown k) →
      exec .pdExitComplete s = .next (settle (t.setSeq { t.seq with dram := .ready }))) ∧
    ∀ y k, s.seq.dram = .enteringSr y (.leavePowerDown k) → exec .pdExitComplete s = .next (settle (closeBanks t y)) := by
  have hexec : exec .pdExitComplete s = execPdExitComplete s := rfl
  rw [hexec, execPdExitComplete, hend]
  exact ⟨fun a k hd => by simp only [hd], fun y k hd => by simp only [hd]⟩

theorem exec_bankCloseComplete {s t : State} {y : EntryPurpose} (hend : endOp s = t)
    (hd : s.seq.dram = .enteringSr y .closeBanks) :
    exec .bankCloseComplete s = .next (settle (payDebt (t.setSeq { t.seq with banks := allClosed }) y)) := by
  have hexec : exec .bankCloseComplete s = execBankCloseComplete s := rfl
  rw [hexec, execBankCloseComplete, hend]
  simp only [hd]

theorem exec_wakeComplete {s t : State} (hend : endOp s = t) (hret : s.seq.retEntry = none) :
    (s.seq.dram = .waking .ready .selfRefresh → exec .wakeComplete s = .next (wakeReady t)) ∧
    (s.seq.dram = .waking .selfRefresh .selfRefresh →
      exec .wakeComplete s = .next (settle (payDebt t .selfRefresh))) ∧
    ∀ a b, s.seq.dram = .waking a (.retention b) →
      exec .wakeComplete s = .next (wakeReady (t.setSeq { t.seq with srRef := some t.now })) := by
  have hexec : exec .wakeComplete s = execWakeComplete s := rfl
  rw [hexec, execWakeComplete, hend]
  refine ⟨fun hd => by simp only [hd], fun hd => ?_, fun a b hd => ?_⟩
  · simp only [hd, hret]
    rfl
  · cases a <;> simp only [hd]

/-- READY is reached with debt left and no transaction: the next refresh is issued at once (R126). -/
theorem wakeReady_refreshes {d : Nat} {s : State} (hbus : s.seq.bus = .free) (hret : s.seq.retEntry = none)
    (hdebt : s.seq.debt = d + 1) (hempty : ∀ p, s.fifo p = []) :
    (wakeReady s).seq.dram = .ready ∧ Refreshing d (wakeReady s) ∧ (wakeReady s).seq.srRef = s.seq.srRef ∧
      (wakeReady s).memory = s.memory ∧ (wakeReady s).now = s.now := by
  obtain ⟨hdram, hrefresh, hsrRef⟩ := settle_refreshes
    (s := s.setSeq { s.seq with dram := .ready, banks := allClosed }) rfl hbus hret hdebt (.inr hempty)
  exact ⟨hdram, hrefresh, hsrRef hempty, settle_memory _, settle_now _⟩

/-- Settles O55: the kept causes in their order; each operation's end by the DRAM state. -/
theorem exitsAndWakesReachReady : Obligations.ExitsAndWakesReachReady := by
  refine ⟨fun s x k hx => ⟨fun hd hempty hkept => ?_, fun q e rest more hd hkept hfifo he => ?_,
    fun more hd hkept hcool => ?_, fun hd => ?_⟩, fun s d hret hbus hdebt hempty => ?_⟩
  · have hexec := (exec_pdResidencyEnd hx (by simp [hd])).1 k hd
    have hnone : s.seq.kept.foldl takeKept (residencyOver s x) = residencyOver s x := by
      obtain hkept | ⟨q, u, hkept⟩ := hkept
      · rw [hkept]
        rfl
      · have hgone : causeHolds (residencyOver s x) (.head q u) = false := by
          simp [causeHolds, headCause, eligible_of_empty (s := residencyOver s x) (hempty q)]
        rw [hkept, List.foldl_cons, takeKept_gone (s := residencyOver s x) hd hgone]
        rfl
    rw [hnone] at hexec
    refine ⟨fun hret => ?_, fun hret => ?_⟩
    · have hstays : retainPowerDown (residencyOver s x) = residencyOver s x := by
        simp only [retainPowerDown, residencyOver, hd, hret]
        rfl
      rw [hstays] at hexec
      exact ⟨_, hexec, settle_powerDown (s := residencyOver s x) hd rfl hempty,
        offWake_residency (AtWork.settle_offWake (s := residencyOver s x) (.inl (by simp [residencyOver, hd])))⟩
    · have hleaves : retainPowerDown (residencyOver s x) = leavePowerDown (residencyOver s x) k := by
        simp only [retainPowerDown, residencyOver, hd, Option.isSome_iff_ne_none.mpr hret]
        rfl
      rw [hleaves] at hexec
      obtain ⟨hdram, hoff⟩ := settle_seq_of_still (s := leavePowerDown (residencyOver s x) k) rfl
      exact ⟨_, hexec, hdram, offWake_residency hoff, (offWake_retEntry hoff :)⟩
  · have hholds : causeHolds (residencyOver s x) (.head q e.tag) = true := by
      have he' : eligible (residencyOver s x) q = true := he
      have hfifo' : (residencyOver s x).fifo q = e :: rest := hfifo
      simp [causeHolds, headCause, he', hfifo']
    obtain ⟨t, hexec, hdram, hoff⟩ := residencyEnd_acts hx hd hkept hholds rfl
    exact ⟨t, hexec, hdram, offWake_residency hoff⟩
  · have hacts := actPdCause_srExpiry (s := residencyOver s x) k hcool
    obtain ⟨t, hexec, hdram, hoff⟩ := residencyEnd_acts hx hd hkept rfl (by rw [hacts]; rfl)
    rw [hacts] at hdram hoff
    exact ⟨t, hexec, hdram, offWake_residency hoff⟩
  · exact ⟨_, (exec_pdResidencyEnd hx (by simp [hd])).2 k hd, rfl, rfl⟩
  · have hended : s.seq.dram ≠ .ready → ∃ n, endOp s = { s with now := n, seq := { s.seq with opTimer := none } } :=
      fun hd => endOp_stays (startDue_of_not_ready hd)
    refine ⟨fun a k hd => ?_, fun k hd hopen => ?_, fun y hd => ?_, fun hd => ?_, fun hd => ?_, fun a b hd => ?_⟩
    all_goals obtain ⟨n, hend⟩ := hended (by simp [hd])
    · have hexec := (exec_pdExitComplete hend).1 a k hd
      obtain ⟨hdram, hrefresh, -⟩ := settle_refreshes (d := d)
        (s := { s with now := n, seq := { s.seq with opTimer := none, dram := .ready } }) rfl hbus hret hdebt (.inr hempty)
      exact ⟨_, hexec, hdram, hrefresh.bus, hrefresh.debt, settle_memory _⟩
    · have hexec := (exec_pdExitComplete hend).2 _ k hd
      rw [closeBanks, if_pos (by exact hopen)] at hexec
      obtain ⟨hdram, hoff⟩ := settle_seq_of_still (s := { s with
        now := n
        seq := { s.seq with
          dram := .enteringSr .selfRefresh .closeBanks
          opTimer := opTimer { s with now := n, seq := { s.seq with opTimer := none } } 15 } }) rfl
      exact ⟨_, hexec, hdram, (offWake_debt hoff).trans hdebt⟩
    · have hexec := exec_bankCloseComplete hend hd
      obtain ⟨hdram, hrefresh, -, hmem⟩ := settle_payDebt (d := d) (x := y)
        (s := { s with now := n, seq := { s.seq with opTimer := none, banks := allClosed } }) hdebt
      exact ⟨_, hexec, hdram, hrefresh.bus, hrefresh.debt, hrefresh.banks, hmem⟩
    · have hexec := (exec_wakeComplete hend hret).1 hd
      obtain ⟨hdram, hrefresh, -, hmem, -⟩ := wakeReady_refreshes (d := d)
        (s := { s with now := n, seq := { s.seq with opTimer := none } }) hbus hret hdebt hempty
      exact ⟨_, hexec, hdram, hrefresh.bus, hrefresh.debt, hrefresh.banks, hmem⟩
    · have hexec := (exec_wakeComplete hend hret).2.1 hd
      obtain ⟨hdram, hrefresh, -, hmem⟩ := settle_payDebt (d := d) (x := .selfRefresh)
        (s := { s with now := n, seq := { s.seq with opTimer := none } }) hdebt
      exact ⟨_, hexec, hdram, hrefresh.debt, hmem⟩
    · have hexec := (exec_wakeComplete hend hret).2.2 a b hd
      obtain ⟨hdram, hrefresh, hsrRef, hmem, hnow⟩ := wakeReady_refreshes (d := d)
        (s := { s with now := n, seq := { s.seq with opTimer := none, srRef := some n } }) hbus hret hdebt hempty
      refine ⟨_, hexec, hdram, hrefresh.debt, hsrRef.trans ?_, hrefresh.banks, hmem⟩
      exact congrArg some hnow.symm

/-! ### The acceptance of a reply -/

theorem presentSession_congr {s t : State} {p : Port} (h : t.session p = s.session p) :
    t.presentSession p = s.presentSession p := by
  rw [State.presentSession, h, State.presentSession]

theorem acceptsReply_of {s t : State} {r : ReplyTo} (hlink : (t.link r.port).inFlight = (s.link r.port).inFlight)
    (hsession : t.session r.port = s.session r.port) : acceptsReply t r = acceptsReply s r := by
  rw [acceptsReply, Link.entry, hlink, presentSession_congr hsession]
  rfl

/-- The transmitter's arbiter leaves the tags in flight. -/
theorem arbitrate_inFlight (s : State) (p q : Port) : ((arbitrate s p).link q).inFlight = (s.link q).inFlight := by
  by_cases hq : q = p
  · subst hq
    obtain h | ⟨r, rest, -, h⟩ | ⟨n, rest, -, -, h⟩ := arbitrate_cases s q
    · rw [h]
    · rw [h, link_setLink_self]
    · exact congrArg (fun x => x.link.inFlight) ((congrArg (State.port · q) h).trans (sendNotice_port s q n rest))
  · exact congrArg (fun x => x.link.inFlight) (arbitrate_port_ne s hq)

theorem post_inFlight (s : State) (p : Port) (n : Notice) (q : Port) :
    ((post s p n).link q).inFlight = (s.link q).inFlight := by
  unfold post
  split
  · rw [arbitrate_inFlight, link_setNotices]
  · rfl

/-- A notice changes no tag and no session. -/
theorem post_accepts (s : State) (p : Port) (n : Notice) (r : ReplyTo) :
    acceptsReply (post s p n) r = acceptsReply s r := acceptsReply_of (post_inFlight s p n _) (post_session s p n _)

theorem postAll_accepts (s : State) (n : Notice) (r : ReplyTo) : acceptsReply (postAll s n) r = acceptsReply s r := by
  have hfold : ∀ (ps : List Port) (t : State), acceptsReply (ps.foldl (fun t p => post t p n) t) r = acceptsReply t r := by
    intro ps
    induction ps with
    | nil => exact fun _ => rfl
    | cons p ps ih => exact fun t => (ih _).trans (post_accepts t p n r)
  exact hfold allPorts s

theorem postAll_fifo (s : State) (n : Notice) (q : Port) : (postAll s n).fifo q = s.fifo q := by
  have hfold : ∀ (ps : List Port) (t : State), (ps.foldl (fun t p => post t p n) t).fifo q = t.fifo q := by
    intro ps
    induction ps with
    | nil => exact fun _ => rfl
    | cons p ps ih => exact fun t => (ih _).trans (post_fifo t p n q)
  exact hfold allPorts s

/-! ### The end of init -/

/-- The self refresh timer's reference point is now (R137). -/
def QuietNow (s : State) : Prop := s.seq.srRef = some s.now

theorem endEntry_quietNow {s : State} {p : Port} {e : Entry} {x : Bool} (h : QuietNow s) :
    QuietNow (endEntry s p e none x) := by
  have hmark : QuietNow (markQuiet s e) := by
    unfold markQuiet
    split
    · rfl
    · exact h
  unfold endEntry report
  dsimp only
  split <;> exact hmark

theorem dropFrom_quietNow (p : Port) : ∀ (l : List Entry) (s : State), QuietNow s → QuietNow (dropFrom p l s)
  | [], _, h => h
  | e :: l, s, h => by
    rw [dropFrom]
    split
    · exact dropFrom_quietNow p l _ (endEntry_quietNow h)
    · exact h

theorem dropBreaches_quietNow {s : State} (h : QuietNow s) : QuietNow (dropBreaches s) := by
  have hfold : ∀ (ps : List Port) (t : State), QuietNow t →
      QuietNow (ps.foldl (fun t p => dropFrom p (t.fifo p) t) t) := by
    intro ps
    induction ps with
    | nil => exact fun _ ht => ht
    | cons p ps ih => exact fun t ht => ih _ (dropFrom_quietNow p _ t ht)
  exact hfold allPorts s h

/-- Without debt the arbiter issues no refresh. -/
theorem chooseAmong_paid {s : State} (h : s.seq.debt = 0) :
    (chooseAmong s).now = s.now ∧ (chooseAmong s).seq.srRef = s.seq.srRef ∧ (chooseAmong s).seq.debt = 0 := by
  unfold chooseAmong
  split
  · exact ⟨rfl, rfl, h⟩
  · rw [if_neg (by simp [h])]
    split
    · unfold grant
      split
      · exact ⟨rfl, rfl, h⟩
      · exact ⟨rfl, rfl, h⟩
    · rw [if_neg (by simp [h])]
      exact ⟨rfl, rfl, h⟩

theorem arbiter_paid {s : State} (hquiet : QuietNow s) (h : s.seq.debt = 0) :
    QuietNow (arbiter s) ∧ (arbiter s).seq.debt = 0 := by
  unfold arbiter
  split
  · have hdebt := (offQuiet_debt (closed_offQuiet.dropBreaches s)).trans h
    obtain ⟨hnow, hsrRef, hpaid⟩ := chooseAmong_paid hdebt
    exact ⟨hsrRef.trans ((dropBreaches_quietNow hquiet).trans (congrArg some hnow.symm)), hpaid⟩
  · exact ⟨hquiet, h⟩

theorem lingers_of_quietNow {s : State} (h : QuietNow s) : Lingers s := by
  by_cases hoff : ms s.params.srIdleMs = 0
  · exact .inr (.inl hoff)
  · refine .inr (.inr fun r hr => ?_)
    have : r = s.now := Option.some.inj (hr.symm.trans h)
    omega

/-- READY without debt, at the self refresh timer's reference point: no debt arises, and the point stays. -/
theorem settle_paid {s : State} (hquiet : QuietNow s) (h : s.seq.debt = 0) :
    (settle s).seq.debt = 0 ∧ (settle s).seq.srRef = some s.now := by
  obtain ⟨hquiet', hdebt⟩ := arbiter_paid hquiet h
  obtain ⟨i, pd, sr, hupdate, -⟩ := updateIdle_lingers (lingers_of_quietNow hquiet')
  have hoff : (settle s).seq.offWake = (arbiter s).seq.offWake := by
    rw [settle, hupdate]
    exact wakeForHeads_offWake _
  have hnow : (arbiter s).now = s.now := (OnlyWork.closed.arbiter s).offEngine.now
  exact ⟨(offWake_debt hoff).trans hdebt, (offWake_srRef hoff).trans (hquiet'.trans (congrArg some hnow))⟩

/-- The DRAM trained, in READY and FRESH (R130). -/
def trained (s : State) : State :=
  { s with
    memory := s.memory.withPatterns
    seq := { s.seq with
      dram := .ready, banks := allClosed, debt := 0, condition := .fresh, srRef := some s.now, reinit := none } }

/-- Init that succeeds settles the trained DRAM, after the answer to a REINIT. -/
theorem initSucceeds_settles (s : State) : ∃ t, initSucceeds s = settle t ∧ OffPorts (trained s) t ∧
    (∀ p, t.fifo p = s.fifo p) ∧
    ∀ q, s.seq.reinit = some q → acceptsReply s q = true → Replied t q [0x00] := by
  unfold initSucceeds
  cases hq : s.seq.reinit with
  | none => exact ⟨trained s, rfl, .refl _, fun _ => rfl, fun q h => nomatch h⟩
  | some q =>
    refine ⟨_, rfl, (postAll_offPorts (trained s) _).trans (answer_offPorts _ q .ok), fun p => ?_, ?_⟩
    · exact (handReply_fifo _ q false false [0x00] p).trans (postAll_fifo (trained s) _ p)
    · intro q' hq' hacc
      obtain rfl := Option.some.inj hq'
      exact (answered_handReply (postAll (trained s) (.memory .freshByReinit)) q false false [0x00]
        ((postAll_accepts (trained s) _ q).trans hacc)).replied

/-- The DRAM whose training has failed (R130). -/
def untrained (s : State) : State :=
  { s with memory := s.memory.withPatterns, seq := { s.seq with dram := .failed, reinit := none } }

/-- Init that fails posts FAULT and answers a REINIT. -/
theorem initFails_leaves (s : State) : OffPorts (untrained s) (initFails s) ∧
    ∀ q, s.seq.reinit = some q → acceptsReply s q = true → Replied (initFails s) q [0x3A] := by
  have hposted := postSupervisor_offPorts (untrained s) (.fault .initFailed)
  unfold initFails
  cases hq : s.seq.reinit with
  | none => exact ⟨hposted, fun q h => nomatch h⟩
  | some q =>
    refine ⟨hposted.trans (answer_offPorts _ q .memoryFailed), fun q' hq' hacc => ?_⟩
    obtain rfl := Option.some.inj hq'
    have hacc' : acceptsReply (untrained s) q = true := hacc
    exact (answered_handReply (postSupervisor (untrained s) (.fault .initFailed)) q false false [0x3A]
      ((post_accepts (untrained s) _ _ q).trans hacc')).replied

/-- Settles O56: the three steps, and the two ends of training. -/
theorem initEndsInReadyOrFailed : Obligations.InitEndsInReadyOrFailed := by
  refine fun s => ⟨fun hd => if_pos hd, fun hd => if_pos hd, fun hd l0 l1 => ⟨fun hl hbus hret => ?_, fun hl => ?_⟩⟩
  · obtain ⟨rfl, rfl⟩ := hl
    have hexec : exec (.trainingComplete true true) s = .next (initSucceeds s) := if_pos hd
    obtain ⟨t, hsettles, hoff, hfifo, hreply⟩ := initSucceeds_settles s
    rw [hsettles] at hexec
    have hseq := hoff.seq
    have hnow : t.now = s.now := hoff.now
    have hquiet : QuietNow t := by
      rw [QuietNow, hseq, hnow]
      rfl
    obtain ⟨hdebt, hsrRef⟩ := settle_paid hquiet (by rw [hseq]; rfl)
    refine ⟨_, hexec, (settle_condition t).trans (by rw [hseq]; rfl), hdebt, hsrRef.trans (by rw [hnow]), ?_,
      (settle_onlyWork t).regions.trans hoff.regions, ?_, fun hempty _ => ?_, fun q hq hacc => ?_⟩
    · exact (congrArg (fun x => x.2.2.1) (settle_onlyWork t).standing :).trans (by rw [hseq]; rfl)
    · rw [settle_memory, hoff.memory]
      rfl
    · have hempty' : ∀ p, t.fifo p = [] := fun p => (hfifo p).trans (hempty p)
      have hidle : idleNow t = true := idleNow_of_empty (by rw [hseq]; rfl) (by rw [hseq]; exact hbus)
        (by rw [hseq]; rfl) (by rw [hseq]; exact hret) hempty'
      obtain ⟨pd, sr, hsettle⟩ := settle_lingers hidle hempty' (lingers_of_quietNow hquiet)
      rw [hsettle, hseq]
      exact ⟨rfl, rfl, allClosed_get⟩
    · exact settle_keepsReplies t _ _ (hreply q hq hacc)
  · have hexec : exec (.trainingComplete l0 l1) s = .next (initFails s) :=
      (if_pos hd).trans (if_neg (by obtain rfl | rfl := hl <;> simp))
    obtain ⟨hoff, hreply⟩ := initFails_leaves s
    exact ⟨_, hexec, (congrArg Sequencer.dram hoff.seq :), (congrArg Sequencer.condition hoff.seq :), hoff.regions, hreply⟩

end Sys2Proof.Machine
end

section
/-! PROOFS. RETENTION_DRAIN_END (R165) and the reference loss (R113, R160, R161, R164). -/

namespace Sys2Proof.Machine

/-! ### Cancellation at one port leaves the others -/

section
variable {p q : Port} (hq : q ≠ p)
include hq

theorem endEntry_port_ne (s : State) (e : Entry) (pl : Option (List Byte)) (x : Bool) :
    (endEntry s p e pl x).port q = s.port q := by
  have hreport : ∀ t : State, (report (markQuiet t e) p e).port q = t.port q := fun t => by
    unfold report markQuiet
    split <;> split <;> rfl
  unfold endEntry
  rw [hreport]
  split
  · exact handReply_port_ne s (e.replyTo p) _ _ _ hq
  · rfl

theorem stopStarted_port_ne (s : State) (o : StopOrder) (sel : Entry → Bool) :
    (stopStarted s p o sel).port q = s.port q := by
  unfold stopStarted
  split
  · rfl
  · split
    · dsimp only
      split
      · exact (endEntry_port_ne hq _ _ _ _).trans (port_setPort_ne _ _ hq)
      · exact port_setPort_ne _ _ hq
    · rfl

theorem cancelFrom_port_ne (hit : Entry → Bool) (pl : Option (List Byte)) :
    ∀ (l kept : List Entry) (s : State), (cancelFrom p hit pl kept l s).port q = s.port q
  | [], _, _ => rfl
  | e :: l, kept, s => by
    rw [cancelFrom]
    split
    · exact (cancelFrom_port_ne hit pl l _ _).trans ((endEntry_port_ne hq _ _ _ _).trans (port_setPort_ne _ _ hq))
    · exact cancelFrom_port_ne hit pl l _ s

theorem retainEntries_port_ne (s : State) : (retainEntries s p).port q = s.port q :=
  (cancelFrom_port_ne hq _ _ _ _ _).trans (stopStarted_port_ne hq s _ _)

end

/-- A fold over ports each of which leaves the others' tables leaves those of a port that it does not name. -/
theorem foldl_port {f : State → Port → State} (hf : ∀ s p q, q ≠ p → (f s p).port q = s.port q) {q : Port} :
    ∀ (l : List Port) (s : State), q ∉ l → (l.foldl f s).port q = s.port q
  | [], _, _ => rfl
  | p :: l, s, h => by
    obtain ⟨hp, hl⟩ := not_or.mp (mt List.mem_cons.mpr h)
    exact (foldl_port hf l _ hl).trans (hf s p q hp)

/-- What a fold over all ports does to one port's tables is what its step does there. -/
theorem foldl_allPorts {f : State → Port → State} (hf : ∀ s p q, q ≠ p → (f s p).port q = s.port q) (p : Port)
    (s : State) : ∃ (before after : List Port) (t : State), allPorts.foldl f s = after.foldl f (f t p) ∧ t = before.foldl f s ∧
      t.port p = s.port p ∧ (after.foldl f (f t p)).port p = (f t p).port p := by
  obtain ⟨before, after, hsplit, hbefore, hafter⟩ := allPorts_split p
  refine ⟨before, after, before.foldl f s, ?_, rfl, foldl_port hf before s hbefore, foldl_port hf after _ hafter⟩
  rw [hsplit, List.foldl_append, List.foldl_cons]

/-! ### RETAINING -/

theorem retainAll_at (s : State) (p : Port) : ∃ (before after : List Port) (t : State), retainAll s = after.foldl retainEntries (retainEntries t p) ∧
    t = before.foldl retainEntries s ∧ t.port p = s.port p ∧ (retainAll s).port p = (retainEntries t p).port p := by
  obtain ⟨before, after, t, hfold, ht, hport, hafter⟩ :=
    foldl_allPorts (fun s p q hq => retainEntries_port_ne hq s) p s
  exact ⟨before, after, t, hfold, ht, hport, (congrArg (State.port · p) hfold).trans hafter⟩

/-- A retention entry leaves only started entries (R113). -/
theorem retainAll_started (s : State) (p : Port) : ∀ e ∈ (retainAll s).fifo p, e.started = true := by
  obtain ⟨-, -, t, -, -, -, hport⟩ := retainAll_at s p
  have hfifo : (retainAll s).fifo p = (retainEntries t p).fifo p := congrArg PortState.fifo hport
  rw [hfifo, retainEntries, cancelWaiting_fifo]
  intro e he
  simpa using (List.mem_filter.mp he).2

/-- The port's transaction that has not started is answered RETAINING (R113). -/
theorem retainAll_answers {s : State} {p : Port} {e : Entry} (hfifo : s.fifo p = [e]) (hnot : e.started = false)
    (hacc : acceptsReply s (e.replyTo p) = true) :
    (retainAll s).fifo p = [] ∧ Replied (retainAll s) (e.replyTo p) [0x39] := by
  obtain ⟨before, after, t, hfold, -, hport, hrest⟩ := retainAll_at s p
  have hfifo' : t.fifo p = [e] := (congrArg PortState.fifo hport).trans hfifo
  have hstop : stopStarted t p .retaining (fun e => decide (e.kind = .fill)) = t := by
    unfold stopStarted
    rw [hfifo']
    exact if_neg (by simp [hnot])
  have hone : retainEntries t p = endEntry (t.setFifo p []) p e (some [0x39]) false := by
    rw [retainEntries, hstop, cancelWaiting, hfifo', cancelFrom, if_pos (by simp [hnot])]
    rfl
  have hlink : (t.setFifo p []).link p = s.link p :=
    (link_setFifo t p [] p).trans (congrArg PortState.link hport)
  have hsession : (t.setFifo p []).session p = s.session p :=
    (session_setFifo t p [] p).trans (congrArg PortState.session hport)
  have hacc' : acceptsReply (t.setFifo p []) (e.replyTo p) = true :=
    (acceptsReply_of (r := e.replyTo p) (congrArg Link.inFlight hlink) hsession).trans hacc
  have hreplied : Replied (retainEntries t p) (e.replyTo p) [0x39] := by
    rw [hone]
    exact KeepsReplies.of_link (endEntry_link_some _ p e [0x39] false) _ _
      (answered_handReply (t.setFifo p []) (e.replyTo p) false false [0x39] hacc').replied
  constructor
  · rw [show (retainAll s).fifo p = (retainEntries t p).fifo p from congrArg PortState.fifo hrest, hone, endEntry_fifo,
      fifo_setFifo_self]
  · rw [hfold]
    exact closed_keepsReplies.foldl _ (fun s q => closed_keepsReplies.retainEntries s q) after _ _ _ hreplied

/-- A started WRITE goes on (R107, R113). -/
theorem retainAll_spares {s : State} {p : Port} {e : Entry} (hfifo : s.fifo p = [e]) (hstarted : e.started = true)
    (hk : e.kind = .write) : (retainAll s).fifo p = [e] := by
  obtain ⟨-, -, t, -, -, hport, hrest⟩ := retainAll_at s p
  have hfifo' : t.fifo p = [e] := (congrArg PortState.fifo hport).trans hfifo
  have hstop : stopStarted t p .retaining (fun e => decide (e.kind = .fill)) = t := by
    unfold stopStarted
    rw [hfifo']
    exact if_neg (by simp [hk])
  rw [show (retainAll s).fifo p = (retainEntries t p).fifo p from congrArg PortState.fifo hrest, retainEntries,
    cancelWaiting_fifo, hstop, hfifo']
  simp [hstarted]

/-! ### RETENTION_DRAIN_END -/

theorem exec_retentionDrainEnd {s : State} {reason : RetReason} (hd : s.seq.dram = .ready) (hbus : s.seq.bus = .free)
    (hret : s.seq.retEntry = some reason) (hnone : anyStarted s = false) :
    exec .retentionDrainEnd s = .next (settle (closeBanks s .retention)) :=
  if_pos ⟨hd, hbus, by simp [drainOver, hret, hnone]⟩

/-! ### The retention entry's beginning -/

theorem beginRetention_enters {s : State} (reason : RetReason)
    (h : s.seq.dram = .ready ∨ (∃ x y, s.seq.dram = .waking x y) ∨ ∃ x y, s.seq.dram = .enteringSr x y) :
    beginRetention s reason = enterRetention s reason := by
  unfold beginRetention
  obtain hd | ⟨x, y, hd⟩ | ⟨x, y, hd⟩ := h <;> simp only [hd]

theorem beginRetention_powerDown {s : State} {k : PdKind} (reason : RetReason) (hd : s.seq.dram = .powerDown k) :
    beginRetention s reason = if s.seq.residency.isNone then leavePowerDown (enterRetention s reason) k
      else enterRetention s reason := by
  unfold beginRetention
  simp only [hd]
  unfold retainPowerDown enterRetention
  simp only [hd]
  rfl

theorem beginRetention_selfRefresh {s : State} {x : Range} (reason : RetReason) (hd : s.seq.dram = .selfRefresh x) :
    beginRetention s reason = reachRetention (enterRetention s reason) x := by
  unfold beginRetention
  simp only [hd]

theorem beginRetention_retention {s : State} {x : Range} {old : RetReason} (reason : RetReason)
    (hd : s.seq.dram = .retention x old) : ∃ r, beginRetention s reason = s.setSeq { s.seq with
      dram := .retention x r, idle := false, pdTimer := none, srTimer := none } ∧ (s.isRunning = true → r = reason) := by
  refine ⟨if !s.isRunning && decide (old = .restart) then .restart else reason, ?_, fun hrun => by simp [hrun]⟩
  unfold beginRetention
  simp only [hd]

theorem beginRetention_rests {s : State} (hd : s.seq.dram = .uninitialized ∨ s.seq.dram = .failed) :
    beginRetention s .refLost = s := by
  unfold beginRetention
  obtain hd | hd := hd <;> simp only [hd]
  rfl

theorem beginRetention_init {s : State} {x : InitStep} (reason : RetReason) (hd : s.seq.dram = .initializing x) :
    beginRetention s reason = abortInit s := by
  unfold beginRetention
  simp only [hd]

end Sys2Proof.Machine
end

section
/-! PROOFS. The reference loss (R113, R160, R161, R164). -/

namespace Sys2Proof.Machine

/-! ### What a retention entry leaves of the FIFOs and the replies -/

theorem judgeRange_fifo (s : State) (x : Range) (q : Port) : (judgeRange s x).fifo q = s.fifo q := by
  unfold judgeRange markSuspect
  split
  · split
    · rfl
    · exact postAll_fifo _ _ q
  · rfl

theorem reachRetention_fifo (s : State) (x : Range) (q : Port) : (reachRetention s x).fifo q = s.fifo q := by
  have hjudged : (judgeRange (inRetention s x) x).fifo q = s.fifo q := judgeRange_fifo _ x q
  unfold reachRetention
  dsimp only
  split
  · exact (fifo_congr (restoreDram_ports _) q).trans hjudged
  · exact hjudged

theorem retainPowerDown_ports (s : State) : (retainPowerDown s).ports = s.ports := by
  unfold retainPowerDown
  split
  · split <;> rfl
  · rfl

theorem beginRetention_fifo (s : State) (reason : RetReason) (q : Port) :
    (beginRetention s reason).fifo q = s.fifo q := by
  unfold beginRetention
  split
  case h_4 => exact fifo_congr (retainPowerDown_ports _) q
  case h_5 => exact reachRetention_fifo _ _ q
  case h_8 => split <;> rfl
  all_goals rfl

theorem seqClosed_keepsReplies : SeqClosed KeepsReplies where
  refl := .refl
  trans := .trans
  handReply := handReply_keepsReplies
  post := closed_keepsReplies.post
  fifo := closed_keepsReplies.fifo
  report := closed_keepsReplies.report
  seq _ _ := .of_link fun _ => rfl
  memory _ _ := .of_link fun _ => rfl
  hold _ _ := .of_link fun _ => rfl
  now _ _ := .of_link fun _ => rfl

/-! ### The answer to a REINIT whose init is aborted -/

theorem failReinit_leaves (s : State) : OffPorts (s.setSeq { s.seq with reinit := none }) (failReinit s) := by
  unfold failReinit
  cases hq : s.seq.reinit with
  | none =>
    have hsame : s.seq = { s.seq with reinit := none } := by rw [← hq]
    show OffPorts (s.setSeq { s.seq with reinit := none }) s
    rw [← hsame]
    exact .refl s
  | some q => exact answer_offPorts _ q .notReady

theorem failReinit_fifo (s : State) (p : Port) : (failReinit s).fifo p = s.fifo p := by
  unfold failReinit
  split
  · exact handReply_fifo _ _ _ _ _ p
  · rfl

theorem failReinit_replied {s : State} {q : ReplyTo} (hq : s.seq.reinit = some q) (hacc : acceptsReply s q = true) :
    Replied (failReinit s) q [0x38] := by
  unfold failReinit
  rw [hq]
  exact (answered_handReply (s.setSeq { s.seq with reinit := none }) q false false [0x38] hacc).replied

/-! ### The end of the event -/

/-- The end of a reference loss, after what it does to the DRAM (R161). -/
def lossEnd (s : State) : State := postAll (settle (failReinit s)) .refLost

theorem lossEnd_seq (s : State) : (lossEnd s).seq = (settle (failReinit s)).seq := (postAll_offPorts _ _).seq

theorem lossEnd_now (s : State) : (lossEnd s).now = s.now :=
  (postAll_offPorts _ _).now.trans ((settle_now _).trans (failReinit_leaves s).now)

theorem lossEnd_memory (s : State) : (lossEnd s).memory = s.memory :=
  (postAll_offPorts _ _).memory.trans ((settle_memory _).trans (failReinit_leaves s).memory)

theorem lossEnd_hold (s : State) : (lossEnd s).retentionHold = s.retentionHold :=
  (postAll_offPorts _ _).retentionHold.trans ((settle_onlyWork _).offEngine.retentionHold.trans
    (failReinit_leaves s).retentionHold)

theorem lossEnd_descends (s : State) : Descends s (lossEnd s) :=
  Descends.trans (.of_fifo (failReinit_fifo s)) ((settle_descends _).trans (.of_fifo (postAll_fifo _ _)))

theorem lossEnd_keepsReplies (s : State) : KeepsReplies (failReinit s) (lossEnd s) :=
  (settle_keepsReplies _).trans (closed_keepsReplies.postAll _ _)

theorem lossEnd_retEntry (s : State) : (lossEnd s).seq.retEntry = s.seq.retEntry := by
  rw [lossEnd_seq, settle_retEntry, (failReinit_leaves s).seq]
  rfl

/-- A DRAM state that no head wakes stands at the end of the event, with the end of its operation. -/
theorem lossEnd_still {s : State} (h : s.seq.dram.still = true) :
    (lossEnd s).seq.dram = s.seq.dram ∧ (lossEnd s).seq.opTimer = s.seq.opTimer := by
  have hseq : (failReinit s).seq = { s.seq with reinit := none } := (failReinit_leaves s).seq
  rw [lossEnd_seq, settle_still (s := failReinit s) (by rw [hseq]; exact h), hseq]
  exact ⟨rfl, rfl⟩

theorem lossEnd_waking {s : State} {x : WakeTarget} {y : WakeFrom} (h : s.seq.dram = .waking x y) :
    (lossEnd s).seq.opTimer = s.seq.opTimer ∧ ∃ x', (lossEnd s).seq.dram = .waking x' y := by
  cases x with
  | ready =>
    obtain ⟨hdram, hop⟩ := lossEnd_still (s := s) (by rw [h]; rfl)
    exact ⟨hop, .ready, hdram.trans h⟩
  | selfRefresh =>
    have hseq : (failReinit s).seq = { s.seq with reinit := none } := (failReinit_leaves s).seq
    have hdram : (failReinit s).seq.dram = .waking .selfRefresh y := by rw [hseq]; exact h
    have hop : (failReinit s).seq.opTimer = s.seq.opTimer := by rw [hseq]
    rw [lossEnd_seq, ← hop]
    generalize failReinit s = t at hdram
    have hready : t.seq.dram ≠ .ready := by simp [hdram]
    have hidle : (updateIdle t).seq.dram = .waking .selfRefresh y ∧ (updateIdle t).seq.opTimer = t.seq.opTimer := by
      cases hi : t.seq.idle
      · rw [updateIdle_stays (idleNow_eq_false_of_dram hready) hi]
        exact ⟨hdram, rfl⟩
      · rw [updateIdle_ends (idleNow_eq_false_of_dram hready) hi]
        exact ⟨hdram, rfl⟩
    rw [settle, arbiter_of_not_ready hready, wakeForHeads, hidle.1]
    dsimp only
    split
    · exact ⟨hidle.2, .ready, rfl⟩
    · exact ⟨hidle.2, .selfRefresh, hidle.1⟩

theorem settle_ready_retains {s : State} (hd : s.seq.dram = .ready) (hret : s.seq.retEntry ≠ none) :
    (settle s).seq.dram = .ready := by
  have hret' : (arbiter s).seq.retEntry ≠ none := by
    have : (arbiter s).seq.retEntry = s.seq.retEntry :=
      (congrArg (fun x => x.2.2.2.1) (OnlyWork.closed.arbiter s).standing :)
    rwa [this]
  exact settled_dram_of_ready (by simp [idleNow, hret']) ((arbiter_onlyStarts s).dram.trans hd)

theorem lossEnd_ready {s : State} (hd : s.seq.dram = .ready) (hret : s.seq.retEntry ≠ none) :
    (lossEnd s).seq.dram = .ready := by
  have hseq : (failReinit s).seq = { s.seq with reinit := none } := (failReinit_leaves s).seq
  rw [lossEnd_seq]
  exact settle_ready_retains (by rw [hseq]; exact hd) (by rw [hseq]; exact hret)

theorem settle_powerDown_resides {s : State} {k : PdKind} (hd : s.seq.dram = .powerDown k)
    (hres : s.seq.residency ≠ none) : (settle s).seq.dram = .powerDown k := by
  have hready : s.seq.dram ≠ .ready := by simp [hd]
  obtain ⟨-, -, hdram, hresidency⟩ := updateIdle_active (idleNow_eq_false_of_dram hready)
  rw [settle, arbiter_of_not_ready hready, wakeForHeads, hdram, hd]
  dsimp only
  rw [headsInPowerDown, hresidency, if_pos (Option.isSome_iff_ne_none.mpr hres)]
  exact hdram.trans hd

/-- With the bus taken the FIFOs stand. -/
theorem lossEnd_busy {s : State} (h : s.seq.bus ≠ .free) :
    (∀ p, (lossEnd s).fifo p = s.fifo p) ∧ (lossEnd s).seq.bus = s.seq.bus := by
  have hbus : (failReinit s).seq.bus = s.seq.bus := by rw [(failReinit_leaves s).seq]; rfl
  have hbusy : (failReinit s).seq.bus ≠ .free := by rwa [hbus]
  have hports : (settle (failReinit s)).ports = (failReinit s).ports := by
    rw [settle, arbiter_of_busy hbusy]
    exact (idleClosed_ports.wakeForHeads _).trans (idleClosed_ports.updateIdle _)
  refine ⟨fun p => ?_, ?_⟩
  · exact (postAll_fifo _ _ p).trans ((fifo_congr hports p).trans (failReinit_fifo s p))
  · rw [lossEnd_seq, offWake_bus (settle_offWake_of_busy hbusy), hbus]

/-! ### Idle timers that have stopped -/

/-- What the arbiter leaves of the Sequencer's record. -/
def Sequencer.offArbiter (q : Sequencer) : Sequencer :=
  { q with banks := allClosed, debt := 0, urgent := false, bus := .free, opTimer := none, lastServed := .a, srRef := none }

theorem chooseAmong_offArbiter (s : State) : (chooseAmong s).seq.offArbiter = s.seq.offArbiter := by
  unfold chooseAmong
  split
  · rfl
  · split
    · rfl
    · split
      · unfold grant
        split <;> rfl
      · split <;> rfl

theorem arbiter_offArbiter (s : State) : (arbiter s).seq.offArbiter = s.seq.offArbiter := by
  unfold arbiter
  split
  · have hoff := closed_offQuiet.dropBreaches s
    exact (chooseAmong_offArbiter _).trans (congrArg Sequencer.offArbiter hoff :)
  · rfl

/-- Not idle, with both idle timers stopped, and no idle start to come. -/
structure Unidle (q : Sequencer) : Prop where
  idle : q.idle = false
  pdTimer : q.pdTimer = none
  srTimer : q.srTimer = none
  busy : q.retEntry ≠ none ∨ q.dram ≠ .ready

theorem wakeForHeads_timers {s : State} (hpd : s.seq.pdTimer = none) (hsr : s.seq.srTimer = none) :
    (wakeForHeads s).seq.pdTimer = none ∧ (wakeForHeads s).seq.srTimer = none := by
  unfold wakeForHeads headsInPowerDown leavePowerDown beginWake
  split
  · split
    · exact ⟨hpd, hsr⟩
    · split
      · exact ⟨rfl, rfl⟩
      · exact ⟨hpd, hsr⟩
  · split
    · exact ⟨rfl, rfl⟩
    · exact ⟨hpd, hsr⟩
  · split <;> exact ⟨hpd, hsr⟩
  · exact ⟨hpd, hsr⟩

theorem settle_timers {s : State} (h : Unidle s.seq) :
    (settle s).seq.pdTimer = none ∧ (settle s).seq.srTimer = none := by
  have hoff := arbiter_offArbiter s
  have hidle : (arbiter s).seq.idle = false := (congrArg Sequencer.idle hoff :).trans h.idle
  have hbusy : idleNow (arbiter s) = false := by
    have hdram : (arbiter s).seq.dram = s.seq.dram := (congrArg Sequencer.dram hoff :)
    have hret : (arbiter s).seq.retEntry = s.seq.retEntry := (congrArg Sequencer.retEntry hoff :)
    obtain hr | hd := h.busy
    · simp [idleNow, hret, hr]
    · simp [idleNow, hdram, hd]
  rw [settle, updateIdle_stays hbusy hidle]
  exact wakeForHeads_timers ((congrArg Sequencer.pdTimer hoff :).trans h.pdTimer)
    ((congrArg Sequencer.srTimer hoff :).trans h.srTimer)

theorem lossEnd_timers {s : State} (h : Unidle s.seq) :
    (lossEnd s).seq.pdTimer = none ∧ (lossEnd s).seq.srTimer = none := by
  have hseq : (failReinit s).seq = { s.seq with reinit := none } := (failReinit_leaves s).seq
  rw [lossEnd_seq]
  exact settle_timers (by rw [hseq]; exact ⟨h.idle, h.pdTimer, h.srTimer, h.busy⟩)

/-! ### The loss -/

/-- The moment of the loss, before the Sequencer acts (R160). -/
def atLoss (s : State) : State :=
  { s.reach (s.clock.lastEdge + 4000) with clock := ⟨.lost, none, s.clock.lastEdge⟩ }

theorem exec_lossWindowExpiry (s : State) : (s.clock.ref = .locking → exec .lossWindowExpiry s = .next (atLoss s)) ∧
    (s.clock.ref = .locked → exec .lossWindowExpiry s = .next (loseReference (atLoss s))) := by
  have hexec : exec .lossWindowExpiry s = execLossWindowExpiry s := rfl
  rw [hexec, execLossWindowExpiry]
  dsimp only
  rw [reach_clock]
  refine ⟨fun href => ?_, fun href => ?_⟩
  · simp only [href]
    rfl
  · simp only [href]
    rfl

/-- The FIFOs stopped and the hold set (R113, R164). -/
@[irreducible] def stoppedAll (s : State) : State := retainAll { s with retentionHold := true }

theorem loseReference_enters {s : State} (h : entersRetention s.seq.dram = true) :
    loseReference s = lossEnd (beginRetention (stoppedAll s) .refLost) := by
  rw [loseReference, if_pos h, stoppedAll]
  rfl

theorem loseReference_not {s : State} (h : entersRetention s.seq.dram = false) :
    loseReference s = lossEnd (beginRetention s .refLost) := by
  rw [loseReference, if_neg (by simp [h])]
  rfl

section
variable (s : State)

theorem stoppedAll_seq : (stoppedAll s).seq.offQuiet = s.seq.offQuiet := by
  rw [stoppedAll]
  exact closed_offQuiet.retainAll _

theorem stoppedAll_dram : (stoppedAll s).seq.dram = s.seq.dram := offQuiet_dram (stoppedAll_seq s)

theorem stoppedAll_retEntry : (stoppedAll s).seq.retEntry = s.seq.retEntry := offQuiet_retEntry (stoppedAll_seq s)

theorem stoppedAll_opTimer : (stoppedAll s).seq.opTimer = s.seq.opTimer := offQuiet_opTimer (stoppedAll_seq s)

theorem stoppedAll_bus : (stoppedAll s).seq.bus = s.seq.bus := offQuiet_bus (stoppedAll_seq s)

theorem stoppedAll_clock : (stoppedAll s).clock = s.clock := by
  rw [stoppedAll]
  exact seqClosed_clock.retainAll _

theorem closed_setting : Closed fun s t => t.retentionHold = s.retentionHold ∧ t.now = s.now ∧ t.restart = s.restart where
  refl _ := ⟨rfl, rfl, rfl⟩
  trans h g := ⟨g.1.trans h.1, g.2.1.trans h.2.1, g.2.2.trans h.2.2⟩
  handReply s r b c pl := have h := handReply_offPorts s r b c pl; ⟨h.retentionHold, h.now, h.restart⟩
  post s p n := have h := post_offPorts s p n; ⟨h.retentionHold, h.now, h.restart⟩
  fifo _ _ _ := ⟨rfl, rfl, rfl⟩
  slot _ _ _ := ⟨rfl, rfl, rfl⟩
  reports _ _ := ⟨rfl, rfl, rfl⟩
  region _ _ _ _ _ _ _ := ⟨rfl, rfl, rfl⟩
  quiet _ _ := ⟨rfl, rfl, rfl⟩

theorem stoppedAll_setting : (stoppedAll s).retentionHold = true ∧ (stoppedAll s).now = s.now ∧
    (stoppedAll s).restart = s.restart := by
  rw [stoppedAll]
  exact closed_setting.retainAll _

theorem stoppedAll_memory : (stoppedAll s).memory = s.memory := by
  rw [stoppedAll]
  exact closed_memory.retainAll _

end

/-- The record of the Sequencer as the retention entry begins, by the DRAM state (R164). -/
theorem beginRetention_unidle {s : State} (reason : RetReason) (href : s.clock.ref ≠ .locked)
    (hhold : s.retentionHold = true) (h : entersRetention s.seq.dram = true) :
    Unidle (beginRetention s reason).seq ∧ (beginRetention s reason).retentionHold = true := by
  have henters : Unidle (enterRetention s reason).seq := ⟨rfl, rfl, rfl, .inl (by simp [enterRetention])⟩
  cases hd : s.seq.dram with
  | uninitialized => simp [hd, entersRetention] at h
  | initializing x => simp [hd, entersRetention] at h
  | failed => simp [hd, entersRetention] at h
  | ready =>
    rw [beginRetention_enters reason (.inl hd)]
    exact ⟨henters, rfl⟩
  | waking x y =>
    rw [beginRetention_enters reason (.inr (.inl ⟨x, y, hd⟩))]
    exact ⟨henters, rfl⟩
  | enteringSr x y =>
    rw [beginRetention_enters reason (.inr (.inr ⟨x, y, hd⟩))]
    exact ⟨henters, rfl⟩
  | powerDown k =>
    rw [beginRetention_powerDown reason hd]
    split
    · exact ⟨⟨rfl, rfl, rfl, .inr (by simp [leavePowerDown, beginWake])⟩, rfl⟩
    · exact ⟨henters, rfl⟩
  | selfRefresh x =>
    obtain ⟨m, c, hjudged⟩ := judgeRange_leaves (inRetention (enterRetention s reason) x) x
    rw [beginRetention_selfRefresh reason hd, reachRetention_away (s := enterRetention s reason) x href]
    have hseq := hjudged.seq
    rw [hseq]
    exact ⟨⟨rfl, rfl, rfl, .inr (by simp [inRetention])⟩, hjudged.retentionHold⟩
  | retention x old =>
    obtain ⟨r, hbegun, -⟩ := beginRetention_retention reason hd
    rw [hbegun]
    exact ⟨⟨rfl, rfl, rfl, .inr (by simp)⟩, hhold⟩

/-! ### What the loss does to each DRAM state -/

section
variable {s : State} (href : s.clock.ref ≠ .locked)
include href

/-- Every transaction that has not started is answered, and the idle timers stop (R113, R164). -/
theorem loseReference_holds (h : entersRetention s.seq.dram = true) :
    (loseReference s).retentionHold = true ∧ (loseReference s).seq.pdTimer = none ∧
      (loseReference s).seq.srTimer = none ∧ ∀ p, ∀ e ∈ (loseReference s).fifo p, e.started = true := by
  obtain ⟨hunidle, hhold⟩ := beginRetention_unidle (s := stoppedAll s) .refLost (by rwa [stoppedAll_clock])
    (stoppedAll_setting s).1 (by rwa [stoppedAll_dram])
  rw [loseReference_enters h]
  obtain ⟨hpd, hsr⟩ := lossEnd_timers hunidle
  refine ⟨(lossEnd_hold _).trans hhold, hpd, hsr, fun p e he => ?_⟩
  obtain ⟨x, hx, hcontinues⟩ := lossEnd_descends _ p e he
  rw [beginRetention_fifo] at hx
  rw [stoppedAll] at hx
  exact hcontinues.started (retainAll_started _ p x hx)

theorem loseReference_selfRefresh {x : Range} (hret : s.seq.retEntry = none) (hd : s.seq.dram = .selfRefresh x) :
    (loseReference s).seq.dram = .retention x .refLost := by
  have hd' := (stoppedAll_dram s).trans hd
  have hret' := (stoppedAll_retEntry s).trans hret
  rw [loseReference_enters (by rw [hd]; rfl), beginRetention_selfRefresh .refLost hd',
    reachRetention_away x (by exact (stoppedAll_clock s) ▸ href)]
  obtain ⟨m, c, hjudged⟩ := judgeRange_leaves (inRetention (enterRetention (stoppedAll s) .refLost) x) x
  have hdram : (judgeRange (inRetention (enterRetention (stoppedAll s) .refLost) x) x).seq.dram
      = .retention x .refLost := by
    rw [hjudged.seq]
    simp [inRetention, enterRetention, hret', mergeReason]
  exact (lossEnd_still (by rw [hdram]; rfl)).1.trans hdram

end

section
variable {s : State}

theorem loseReference_ready (hret : s.seq.retEntry = none) (hd : s.seq.dram = .ready) :
    (loseReference s).seq.dram = .ready ∧ (loseReference s).seq.retEntry = some .refLost := by
  have hd' := (stoppedAll_dram s).trans hd
  have hret' : (enterRetention (stoppedAll s) .refLost).seq.retEntry = some .refLost := by
    simp [enterRetention, (stoppedAll_retEntry s).trans hret, mergeReason]
  rw [loseReference_enters (by rw [hd]; rfl), beginRetention_enters .refLost (.inl hd')]
  exact ⟨lossEnd_ready hd' (by simp [hret']), (lossEnd_retEntry _).trans hret'⟩

theorem loseReference_powerDown {k : PdKind} (hret : s.seq.retEntry = none) (hd : s.seq.dram = .powerDown k) :
    (loseReference s).seq.retEntry = some .refLost ∧
      (s.seq.residency ≠ none → (loseReference s).seq.dram = .powerDown k) ∧
      (s.seq.residency = none → (loseReference s).seq.dram = .waking .ready (.powerDown k)) := by
  have hd' := (stoppedAll_dram s).trans hd
  have hres' : (stoppedAll s).seq.residency = s.seq.residency := offQuiet_residency (stoppedAll_seq s)
  have hret' : (enterRetention (stoppedAll s) .refLost).seq.retEntry = some .refLost := by
    simp [enterRetention, (stoppedAll_retEntry s).trans hret, mergeReason]
  rw [loseReference_enters (by rw [hd]; rfl), beginRetention_powerDown .refLost hd', hres']
  refine ⟨(lossEnd_retEntry _).trans ?_, fun hres => ?_, fun hres => ?_⟩
  · split <;> exact hret'
  · rw [if_neg (by simp [hres]), lossEnd_seq]
    have hseq : (failReinit (enterRetention (stoppedAll s) .refLost)).seq =
        { (enterRetention (stoppedAll s) .refLost).seq with reinit := none } := (failReinit_leaves _).seq
    exact settle_powerDown_resides (by rw [hseq]; exact hd') (by rw [hseq]; exact hres'.symm ▸ hres)
  · rw [if_pos (by simp [hres])]
    exact (lossEnd_still rfl).1

theorem loseReference_waking {x : WakeTarget} {y : WakeFrom} (hret : s.seq.retEntry = none)
    (hd : s.seq.dram = .waking x y) : (loseReference s).seq.retEntry = some .refLost ∧
      (loseReference s).seq.opTimer = s.seq.opTimer ∧ ∃ x', (loseReference s).seq.dram = .waking x' y := by
  have hd' := (stoppedAll_dram s).trans hd
  have hret' : (enterRetention (stoppedAll s) .refLost).seq.retEntry = some .refLost := by
    simp [enterRetention, (stoppedAll_retEntry s).trans hret, mergeReason]
  rw [loseReference_enters (by rw [hd]; rfl), beginRetention_enters .refLost (.inr (.inl ⟨x, y, hd'⟩))]
  obtain ⟨hop, hdram⟩ := lossEnd_waking (s := enterRetention (stoppedAll s) .refLost) hd'
  exact ⟨(lossEnd_retEntry _).trans hret', hop.trans (stoppedAll_opTimer s), hdram⟩

theorem loseReference_enteringSr {x : EntryPurpose} {y : EntryStep} (hret : s.seq.retEntry = none)
    (hd : s.seq.dram = .enteringSr x y) : (loseReference s).seq.retEntry = some .refLost ∧
      (loseReference s).seq.opTimer = s.seq.opTimer ∧ (loseReference s).seq.dram = .enteringSr x y := by
  have hd' := (stoppedAll_dram s).trans hd
  have hret' : (enterRetention (stoppedAll s) .refLost).seq.retEntry = some .refLost := by
    simp [enterRetention, (stoppedAll_retEntry s).trans hret, mergeReason]
  rw [loseReference_enters (by rw [hd]; rfl), beginRetention_enters .refLost (.inr (.inr ⟨x, y, hd'⟩))]
  have hdram : (enterRetention (stoppedAll s) .refLost).seq.dram = .enteringSr x y := hd'
  obtain ⟨hstays, hop⟩ := lossEnd_still (s := enterRetention (stoppedAll s) .refLost) (by rw [hdram]; rfl)
  exact ⟨(lossEnd_retEntry _).trans hret', hop.trans (stoppedAll_opTimer s), hstays.trans hdram⟩

theorem loseReference_retention {x : Range} {why : RetReason} (hd : s.seq.dram = .retention x why)
    (hrun : s.isRunning = true) :
    (loseReference s).seq.dram = .retention x .refLost ∧ (loseReference s).memory = s.memory := by
  have hd' := (stoppedAll_dram s).trans hd
  have hrun' : (stoppedAll s).isRunning = true := by
    rw [State.isRunning, (stoppedAll_setting s).2.2]
    exact hrun
  obtain ⟨r, hbegun, hreason⟩ := beginRetention_retention .refLost hd'
  rw [loseReference_enters (by rw [hd]; rfl), hbegun, hreason hrun']
  refine ⟨(lossEnd_still rfl).1, ?_⟩
  rw [lossEnd_memory]
  exact stoppedAll_memory s

/-- An init is aborted, and a REINIT answered NOT_READY (R131, R164). -/
theorem loseReference_init {x : InitStep} (hd : s.seq.dram = .initializing x) :
    (loseReference s).seq.dram = .uninitialized ∧ (loseReference s).retentionHold = s.retentionHold ∧
      ∀ q, s.seq.reinit = some q → acceptsReply s q = true → Replied (loseReference s) q [0x38] := by
  rw [loseReference_not (by rw [hd]; rfl), beginRetention_init .refLost hd]
  refine ⟨(lossEnd_still rfl).1, lossEnd_hold _, fun q hq hacc => ?_⟩
  exact lossEnd_keepsReplies _ _ _ (failReinit_replied (s := abortInit s) hq hacc)

theorem loseReference_rests (hd : s.seq.dram = .uninitialized ∨ s.seq.dram = .failed) :
    (loseReference s).seq.dram = s.seq.dram ∧ (loseReference s).retentionHold = s.retentionHold := by
  have hnot : entersRetention s.seq.dram = false := by obtain hd | hd := hd <;> rw [hd] <;> rfl
  have hstill : s.seq.dram.still = true := by obtain hd | hd := hd <;> rw [hd] <;> rfl
  rw [loseReference_not hnot, beginRetention_rests hd]
  exact ⟨(lossEnd_still hstill).1, lossEnd_hold s⟩

/-- A transaction that has not started is answered RETAINING (R113). -/
theorem loseReference_answers {p : Port} {e : Entry} (h : entersRetention s.seq.dram = true) (hfifo : s.fifo p = [e])
    (hnot : e.started = false) (hacc : acceptsReply s (e.replyTo p) = true) :
    (loseReference s).fifo p = [] ∧ Replied (loseReference s) (e.replyTo p) [0x39] := by
  have hstopped : (stoppedAll s).fifo p = [] ∧ Replied (stoppedAll s) (e.replyTo p) [0x39] := by
    rw [stoppedAll]
    exact retainAll_answers (s := { s with retentionHold := true }) hfifo hnot hacc
  obtain ⟨hgone, hreplied⟩ := hstopped
  rw [loseReference_enters h]
  refine ⟨List.eq_nil_iff_forall_not_mem.mpr fun x hx => ?_, ?_⟩
  · obtain ⟨y, hy, -⟩ := lossEnd_descends _ p x hx
    rw [beginRetention_fifo, hgone] at hy
    cases hy
  · have hbegun := seqClosed_keepsReplies.beginRetention (stoppedAll s) .refLost _ _ hreplied
    exact lossEnd_keepsReplies _ _ _ (seqClosed_keepsReplies.failReinit _ _ _ hbegun)

/-- A WRITE whose burst is in progress goes on (R107). -/
theorem loseReference_spares {p : Port} {e : Entry} {b : Bool} (hd : s.seq.dram = .ready)
    (hbus : s.seq.bus = .burst p b) (hfifo : s.fifo p = [e]) (hstarted : e.started = true) (hk : e.kind = .write) :
    (loseReference s).fifo p = [e] ∧ (loseReference s).seq.bus = .burst p b := by
  have hd' := (stoppedAll_dram s).trans hd
  have hfifo' : (stoppedAll s).fifo p = [e] := by
    rw [stoppedAll]
    exact retainAll_spares (s := { s with retentionHold := true }) hfifo hstarted hk
  rw [loseReference_enters (by rw [hd]; rfl), beginRetention_enters .refLost (.inl hd')]
  have hbus' : (enterRetention (stoppedAll s) .refLost).seq.bus = .burst p b := (stoppedAll_bus s).trans hbus
  obtain ⟨hsame, hbusSame⟩ := lossEnd_busy (s := enterRetention (stoppedAll s) .refLost) (by simp [hbus'])
  exact ⟨(hsame p).trans hfifo', hbusSame.trans hbus'⟩

end

end Sys2Proof.Machine
end

section
/-! PROOFS. The way into RETENTION after a reference loss (R160 to R165): the statement. -/

namespace Sys2Proof.Machine

/-! ### The moment of the loss -/

theorem restoreDram_now (s : State) : (restoreDram s).now = s.now := by
  unfold restoreDram
  repeat' split
  all_goals rfl

theorem reachRetention_now (s : State) (x : Range) : (reachRetention s x).now = s.now := by
  have hjudged : (judgeRange (inRetention s x) x).now = s.now := judgeRange_now _ x
  unfold reachRetention
  dsimp only
  split
  · exact (restoreDram_now _).trans hjudged
  · exact hjudged

theorem beginRetention_now (s : State) (reason : RetReason) : (beginRetention s reason).now = s.now := by
  unfold beginRetention
  split
  case h_4 =>
    unfold retainPowerDown
    split
    · split <;> rfl
    · rfl
  case h_5 => exact reachRetention_now _ _
  case h_8 => split <;> rfl
  all_goals rfl

theorem loseReference_now (s : State) : (loseReference s).now = s.now := by
  by_cases h : entersRetention s.seq.dram = true
  · rw [loseReference_enters h, lossEnd_now, beginRetention_now]
    exact (stoppedAll_setting s).2.1
  · rw [loseReference_not (Bool.eq_false_iff.mpr h), lossEnd_now, beginRetention_now]

section
variable {s : State}

theorem atLoss_dram : (atLoss s).seq.dram = s.seq.dram := reach_dram s _

theorem atLoss_retEntry : (atLoss s).seq.retEntry = s.seq.retEntry := by
  have hstart : (startDue s).seq.standing = s.seq.standing := (OnlyWork.closed.startDue s).standing
  show (s.reach _).seq.retEntry = s.seq.retEntry
  unfold State.reach
  split
  · exact (congrArg (fun x => x.2.2.2.1) hstart :)
  · rfl

/-- Where no start is due, the loss finds the Sequencer and the FIFOs as they stood. -/
theorem atLoss_stays (h : startDue s = s ∨ s.clock.lastEdge + 4000 ≤ s.now) :
    atLoss s = { s with now := max s.now (s.clock.lastEdge + 4000), clock := ⟨.lost, none, s.clock.lastEdge⟩ } := by
  have hreach : s.reach (s.clock.lastEdge + 4000) = { s with now := max s.now (s.clock.lastEdge + 4000) } :=
    h.elim (fun hs => reach_of_stays hs _) reach_of_past
  rw [atLoss, hreach]

theorem atLoss_seq (h : s.seq.dram ≠ .ready) : (atLoss s).seq = s.seq := by
  rw [atLoss_stays (.inl (startDue_of_not_ready h))]

theorem atLoss_accepts (r : ReplyTo) : acceptsReply (atLoss s) r = acceptsReply s r :=
  acceptsReply_of (congrArg Link.inFlight (reach_link s _ r.port)) (reach_session s _ r.port)

/-- The only entry of all FIFOs, of a WRITE, starts as time passes to the loss (R117, R123). -/
theorem atLoss_starts {p : Port} {e : Entry} (hnow : s.now < s.clock.lastEdge + 4000) (hd : s.seq.dram = .ready)
    (hbus : s.seq.bus = .free) (hret : s.seq.retEntry = none) (hdebt : s.seq.debt = 0) (hfifo : s.fifo p = [e])
    (hothers : ∀ q, q ≠ p → s.fifo q = []) (he : eligible s p = true) (hk : e.kind = .write) :
    (atLoss s).fifo p = [{ e with issued := true }] ∧
      (atLoss s).seq.bus = .burst p (decide (s.params.pagePolicy = .closed)) := by
  have honly : ∀ q, eligible s q = true → q = p := fun q hq => by
    by_contra hne
    simp [eligible_of_empty (hothers q hne)] at hq
  have hstands : ∀ q x l, s.fifo q = x :: l → x.offers = true → leaseStands s q x = true := fun q x l hq _ => by
    by_cases hqp : q = p
    · subst hqp
      obtain ⟨rfl, -⟩ := List.cons_eq_cons.mp (hfifo.symm.trans hq)
      simp only [eligible, hfifo, Bool.and_eq_true] at he
      exact he.2
    · rw [hothers q hqp] at hq
      cases hq
  have hchoose : chooseAmong s = grant s p := by
    rw [chooseAmong, if_neg (by simp [drainOver, hret]), if_neg (by simp [hdebt]),
      find?_eq_some_of_least (cycleAfter_pairwise _) (mem_cycleAfter _ p) he
        fun q hq => by rw [honly q hq]]
  have hstart : startDue s = grant s p :=
    (if_pos (anyEligible_of he)).trans ((arbiter_chooses hd hbus hstands).trans hchoose)
  have hgrant : (grant s p).fifo p = [{ e with issued := true }] ∧
      (grant s p).seq.bus = .burst p (decide (s.params.pagePolicy = .closed)) := by
    rw [grant, hfifo]
    refine ⟨(fifo_setFifo_self s p _).trans ?_, rfl⟩
    simp [hk]
  rw [atLoss, reach_of_later hnow, hstart]
  exact hgrant

end

/-! ### RETENTION_DRAIN_END -/

theorem drainEnd_closes {s : State} (hopen : anyBankOpen s.seq = true) :
    closeBanks s .retention =
      s.setSeq { s.seq with dram := .enteringSr .retention .closeBanks, opTimer := opTimer s 15 } := if_pos hopen

theorem drainEnd_closed {s : State} (hopen : anyBankOpen s.seq = false) :
    closeBanks s .retention = payDebt s .retention := if_neg (by simp [hopen])

/-- Settles O57: the drain's end by the banks and the debt; the loss by the DRAM state. -/
theorem referenceLossLeadsToRetention : Obligations.ReferenceLossLeadsToRetention := by
  refine ⟨fun s reason hd hbus hret hnone => ?_, fun s => ⟨(exec_lossWindowExpiry s).1, fun href => ?_⟩⟩
  · have hexec := exec_retentionDrainEnd hd hbus hret hnone
    refine ⟨fun hopen => ?_, fun d hopen hdebt => ?_, fun hopen hdebt href hband => ?_⟩
    · rw [drainEnd_closes hopen] at hexec
      obtain ⟨hdram, hoff⟩ := settle_seq_of_still
        (s := s.setSeq { s.seq with dram := .enteringSr .retention .closeBanks, opTimer := opTimer s 15 }) rfl
      exact ⟨_, hexec, hdram, (offWake_retEntry hoff).trans hret, settle_memory _⟩
    · rw [drainEnd_closed hopen] at hexec
      obtain ⟨hdram, hrefresh, -, hmem⟩ := settle_payDebt (s := s) (x := .retention) hdebt
      exact ⟨_, hexec, hdram, hrefresh.bus, hrefresh.debt, hmem⟩
    · have hfinal : payDebt s .retention = reachRetention s .extended :=
        (payDebt_paid hdebt).trans ((finalStep_retains .retention hret).trans rfl)
      rw [drainEnd_closed hopen, hfinal] at hexec
      have hretained := settle_reachRetention (s := s) (x := .extended) href hret
      have hwithin : beyondRange .extended s.thermal.band = false := by
        cases hb : s.thermal.band <;> simp_all [beyondRange]
      exact ⟨_, hexec, hretained.dram, hretained.retEntry, (hretained.within hwithin).2⟩
  · have hexec := (exec_lossWindowExpiry s).2 href
    have hlost : (atLoss s).clock.ref ≠ .locked := by simp [atLoss]
    have hkeeps : KeepsRest (atLoss s) (loseReference (atLoss s)) := seqClosed_keepsRest.loseReference _
    have hdram := atLoss_dram (s := s)
    refine ⟨_, hexec, seqClosed_clock.loseReference _, loseReference_now _,
      (congrArg State.regions hkeeps.rest :).trans (reach_regions s _),
      (congrArg State.params hkeeps.rest :).trans (reach_params s _), fun h => ?_, fun hret => ?_,
      fun r why hd hrun => ?_, fun ⟨st, hd⟩ => ?_, fun hd => ?_, fun p e h hfifo hacc hnot hstays => ?_,
      fun p e hnow hd hbus hret hdebt hfifo hothers he hk => ?_⟩
    · exact loseReference_holds hlost (hdram ▸ h)
    · have hret' := atLoss_retEntry.trans hret
      refine ⟨fun hd => loseReference_ready hret' (hdram.trans hd), fun k hd => ?_, fun x y hd => ?_,
        fun x y hd => ?_, fun r hd => loseReference_selfRefresh hlost hret' (hdram.trans hd)⟩
      · have hseq := atLoss_seq (s := s) (by simp [hd])
        have hpd := loseReference_powerDown hret' (hdram.trans hd)
        rwa [hseq] at hpd
      · have hseq := atLoss_seq (s := s) (by simp [hd])
        have hwaking := loseReference_waking hret' (hdram.trans hd)
        rwa [hseq] at hwaking
      · have hseq := atLoss_seq (s := s) (by simp [hd])
        have hentering := loseReference_enteringSr hret' (hdram.trans hd)
        rwa [hseq] at hentering
    · obtain ⟨hstays, hmem⟩ := loseReference_retention (s := atLoss s) (hdram.trans hd) ((reach_isRunning s _).trans hrun)
      exact ⟨hstays, hmem.trans (reach_memory s _)⟩
    · obtain ⟨haborted, hhold, hreply⟩ := loseReference_init (s := atLoss s) (hdram.trans hd)
      have hseq := atLoss_seq (s := s) (by simp [hd])
      refine ⟨haborted, hhold.trans (reach_retentionHold s _), fun q hq hacc => ?_⟩
      exact hreply q (by rwa [hseq]) ((atLoss_accepts q).trans hacc)
    · obtain ⟨hrests, hhold⟩ := loseReference_rests (s := atLoss s) (by rwa [hdram])
      exact ⟨hrests.trans hdram, hhold.trans (reach_retentionHold s _)⟩
    · have hnone : startDue s = s ∨ s.clock.lastEdge + 4000 ≤ s.now := by
        obtain hpast | hready | hbusy | hnone := hstays
        · exact .inr hpast
        · exact .inl (startDue_of_not_ready hready)
        · exact .inl (startDue_of_busy hbusy)
        · exact .inl (startDue_of_none hnone)
      have hfifo' : (atLoss s).fifo p = [e] := by rw [atLoss_stays hnone]; exact hfifo
      exact loseReference_answers (hdram ▸ h) hfifo' hnot ((atLoss_accepts _).trans hacc)
    · obtain ⟨hstarted, hburst⟩ := atLoss_starts hnow hd hbus hret hdebt hfifo hothers he hk
      exact loseReference_spares (hdram.trans hd) hburst hstarted rfl hk

end Sys2Proof.Machine
end

section
/-! PROOFS. Notices and the transmitter (R14, R15, R176 to R179). -/

namespace Sys2Proof.Machine

/-! ### The transmitter's arbiter -/

section
variable {s : State} {p : Port}

theorem arbitrate_stopped (h : s.isRunning = false) : arbitrate s p = s := if_neg (by simp [h])

theorem arbitrate_busy (h : (s.link p).tx ≠ none) : arbitrate s p = s := by
  obtain ⟨x, hx⟩ := Option.ne_none_iff_exists'.mp h
  unfold arbitrate
  split
  · rw [hx]
  · rfl

theorem arbitrate_response {r : Response} {rest : List Response} (hrun : s.isRunning = true)
    (htx : (s.link p).tx = none) (hr : (s.link p).responses = r :: rest) :
    arbitrate s p = s.setLink p { s.link p with responses := rest, tx := some ⟨r.frame, r.restart⟩ } := by
  rw [arbitrate, if_pos hrun, htx, hr]

theorem arbitrate_notice {n : Notice} {rest : List Notice} (hrun : s.isRunning = true) (htx : (s.link p).tx = none)
    (hr : (s.link p).responses = []) (hc : 0 < (s.link p).credit) (hn : (s.notices p).queue = n :: rest) :
    arbitrate s p = sendNotice s p n rest := by
  rw [arbitrate, if_pos hrun, htx, hr, hn]
  exact if_pos hc

theorem arbitrate_nothing (hr : (s.link p).responses = [])
    (hn : (s.link p).credit = 0 ∨ (s.notices p).queue = []) : arbitrate s p = s := by
  unfold arbitrate
  split
  · split
    · rfl
    · rw [hr]
      dsimp only
      split
      · next n rest hq =>
        have hc : (s.link p).credit = 0 := hn.resolve_right (by simp [hq])
        exact if_neg (by simp [hc])
      · rfl
  · rfl

end

/-- A notice begun takes one credit, the next sequence number and the count of the lost (R15, R177). -/
structure NoticeSent (s t : State) (p : Port) (n : Notice) (rest : List Notice) : Prop where
  off : OffPorts s t
  others : ∀ q, q ≠ p → t.port q = s.port q
  session : t.session p = s.session p
  fifo : t.fifo p = s.fifo p
  slot : t.slot p = s.slot p
  notices : t.notices p = ⟨rest, 0, (s.notices p).next + 1⟩
  link : t.link p = { s.link p with
    credit := (s.link p).credit - 1
    tx := some ⟨noticeFrame (s.notices p).next (s.notices p).lost n, false⟩ }

theorem sendNotice_sent (s : State) (p : Port) (n : Notice) (rest : List Notice) :
    NoticeSent s (sendNotice s p n rest) p n rest := by
  have hport := sendNotice_port s p n rest
  exact ⟨sendNotice_offPorts s p n rest, fun q hq => (port_setPort_ne _ _ hq).trans (port_setPort_ne _ _ hq),
    (congrArg PortState.session hport :), (congrArg PortState.fifo hport :), (congrArg PortState.slot hport :),
    (congrArg PortState.notices hport :), (congrArg PortState.link hport :)⟩

/-! ### Posting -/

theorem post_live {s : State} {p : Port} (n : Notice) (hrun : s.isRunning = true) (hlive : (s.session p).live = true) :
    post s p n = arbitrate (s.setNotices p ((s.notices p).enqueue n)) p := if_pos (by simp [hrun, hlive])

theorem post_refused {s : State} {p : Port} (n : Notice) (h : s.isRunning = false ∨ (s.session p).live = false) :
    post s p n = s := if_neg (by obtain h | h := h <;> simp [h])

section
variable {q : Notices}

/-- A notice that neither coalesces nor replaces another (R178, R179). -/
theorem enqueue_appends {n : Notice} (hyield : ∀ i x, n = .yield i x → ∀ y, .yield i y ∉ q.queue)
    (hthermal : n.isThermal = true → ∀ y ∈ q.queue, y.isThermal = false) :
    q.enqueue n = if q.queue.length < 16 then { q with queue := q.queue ++ [n] }
      else { q with lost := min 255 (q.lost + 1) } := by
  unfold Notices.enqueue
  dsimp only
  split
  · next i x =>
    have hnone : holdsYield q.queue i = false := by
      unfold holdsYield
      refine List.any_eq_false.mpr fun m hm => ?_
      cases m
      case yield j y =>
        have hne : j ≠ i := by
          rintro rfl
          exact hyield j x rfl y hm
        simp [hne]
      all_goals simp
    rw [hnone]
    rfl
  · have hnone : q.queue.any Notice.isThermal = false :=
      List.any_eq_false.mpr fun m hm => by simp [hthermal rfl m hm]
    rw [hnone]
    rfl
  · rfl

theorem enqueue_yield_again {i : RegionId} {x y : Option Nat} (h : .yield i y ∈ q.queue) :
    q.enqueue (.yield i x) = q := by
  have hholds : holdsYield q.queue i = true := List.any_eq_true.mpr ⟨_, h, by simp⟩
  exact if_pos hholds

theorem enqueue_thermal_again {b : Band} {x : Option Int} (h : ∃ y ∈ q.queue, y.isThermal = true) :
    q.enqueue (.thermal b x) =
      { q with queue := q.queue.map fun y => if y.isThermal = true then .thermal b x else y } :=
  if_pos (List.any_eq_true.mpr h)

end

/-! ### CREDIT -/

theorem exec_credit {s : State} {p : Port} {tb : Byte} {pl : List Byte} (h : Hears s p) (hl : pl.length ≤ 320) :
    ((s.session p).live = false ∨ grantOf pl = none → exec (.credit p tb pl) s = .next (reportGood s p)) ∧
    ∀ n, (s.session p).live = true → grantOf pl = some n →
      exec (.credit p tb pl) s = .next (addCredit (reportGood s p) p n) := by
  have hexec : exec (.credit p tb pl) s = execCredit p tb pl s := rfl
  rw [hexec, execCredit, receive_heard s p _ _ h hl, reportGood_live]
  refine ⟨fun hnone => ?_, fun n hlive hgrant => ?_⟩
  · obtain hdead | hgrant := hnone
    · exact if_neg (by simp [hdead])
    · rw [hgrant]
      split <;> rfl
  · rw [if_pos hlive, hgrant]

theorem grantOf_none {pl : List Byte} (h : ∀ b, pl = [b] → b.toNat = 0 ∨ 16 < b.toNat) : grantOf pl = none := by
  unfold grantOf
  split
  · next b =>
    have := h b rfl
    exact if_neg (by omega)
  · rfl

/-- Settles O17: what a post does to the queue, and what a grant of credit does to the transmitter. -/
theorem noticesWaitForCredit : Obligations.NoticesWaitForCredit := by
  refine ⟨fun s p n => ⟨fun ⟨hrun, hlive⟩ => post_live n hrun hlive, post_refused n⟩,
    fun q n => ⟨?_, ?_, fun hyield hthermal => ?_⟩, fun p tb pl s h hl => ⟨fun hnone => ?_, ?_⟩⟩
  · rintro i x y rfl hy
    exact enqueue_yield_again hy
  · rintro b x rfl hy
    exact enqueue_thermal_again hy
  · rw [enqueue_appends hyield hthermal]
    exact ⟨fun hroom => if_pos hroom, fun hfull => if_neg (Nat.not_lt.mpr hfull)⟩
  · exact (exec_credit h hl).1 (hnone.imp_right grantOf_none)
  · rintro b rfl hlo hhi hlive
    have hexec := (exec_credit (tb := tb) h hl).2 b.toNat hlive (if_pos ⟨hlo, hhi⟩)
    have hlink : ((reportGood s p).setLink p { (reportGood s p).link p with
        credit := min 16 ((s.link p).credit + b.toNat) }).link p = { (reportGood s p).link p with
        credit := min 16 ((s.link p).credit + b.toNat) } := link_setLink_self _ _ _
    have hcredit : ((reportGood s p).link p).credit = (s.link p).credit := by rw [reportGood_link]
    have htx : ((reportGood s p).link p).tx = (s.link p).tx := by rw [reportGood_link]
    have hresponses : ((reportGood s p).link p).responses = (s.link p).responses := by rw [reportGood_link]
    have hnotices : ((reportGood s p).setLink p { (reportGood s p).link p with
        credit := min 16 ((s.link p).credit + b.toNat) }).notices p = s.notices p :=
      (notices_setLink _ _ _ _).trans (reportGood_notices s p p)
    rw [addCredit, hcredit] at hexec
    refine ⟨fun hrests => ?_, fun n rest hfree hempty hqueue => ?_⟩
    · rw [hexec]
      obtain hbusy | ⟨hempty, hqueue⟩ := hrests
      · rw [arbitrate_busy (by rw [hlink]; exact htx ▸ hbusy)]
      · rw [arbitrate_nothing (by rw [hlink]; exact hresponses.trans hempty) (.inr (by rw [hnotices, hqueue]))]
    · have hrun : ((reportGood s p).setLink p { (reportGood s p).link p with
          credit := min 16 ((s.link p).credit + b.toNat) }).isRunning = true :=
        (reportGood_offPorts s p).isRunning.trans h.1
      rw [arbitrate_notice hrun (by rw [hlink]; exact htx.trans hfree) (by rw [hlink]; exact hresponses.trans hempty)
        (by rw [hlink]; show 0 < min 16 _; omega) (by rw [hnotices, hqueue])] at hexec
      have hsent := sendNotice_sent ((reportGood s p).setLink p { (reportGood s p).link p with
          credit := min 16 ((s.link p).credit + b.toNat) }) p n rest
      refine ⟨_, hexec, (setLink_offPorts _ _ _).trans hsent.off, fun q hq => ?_, ?_, ?_, ?_, ?_, ?_⟩
      · exact (hsent.others q hq).trans ((port_setPort_ne _ _ hq).trans (reportGood_port_ne s hq))
      · exact hsent.session.trans (session_setLink _ _ _ _)
      · exact hsent.fifo.trans ((fifo_setLink _ _ _ _).trans (reportGood_fifo s p p))
      · exact hsent.slot.trans ((slot_setLink _ _ _ _).trans (reportGood_slot s p p))
      · rw [hsent.notices, hnotices]
      · rw [hsent.link, hlink, hnotices]

/-! ### FRAME_TRANSMITTED -/

theorem setLink_setLink (s : State) (p : Port) (x y : Link) : (s.setLink p x).setLink p y = s.setLink p y := by
  have hport : (s.setLink p x).port p = { s.port p with link := x } := port_setPort_self s p _
  unfold State.setLink at hport ⊢
  rw [hport]
  cases s
  cases p <;> rfl

/-- From the beginning of a warm restart to its release no frame is begun, and the one in progress goes on (R172). -/
def Unbegun (s t : State) : Prop :=
  t.restart = s.restart ∧ (s.isRunning = false → ∀ q, (t.link q).tx = (s.link q).tx)

theorem Unbegun.of_link {s t : State} (hrestart : t.restart = s.restart) (h : ∀ q, t.link q = s.link q) : Unbegun s t :=
  ⟨hrestart, fun _ q => by rw [h]⟩

theorem Unbegun.trans {s t u : State} (h : Unbegun s t) (g : Unbegun t u) : Unbegun s u := by
  refine ⟨g.1.trans h.1, fun hrun q => ?_⟩
  have hrun' : t.isRunning = false := by rw [State.isRunning, h.1]; exact hrun
  exact (g.2 hrun' q).trans (h.2 hrun q)

theorem handReply_unbegun (s : State) (r : ReplyTo) (a b : Bool) (pl : List Byte) :
    Unbegun s (handReply s r a b pl) := by
  refine ⟨(handReply_offPorts s r a b pl).restart, fun hrun q => ?_⟩
  by_cases hq : q = r.port
  · subst hq
    unfold handReply
    split
    · rw [arbitrate_stopped (by exact hrun), link_setLink_self]
    · rfl
  · exact congrArg (fun x => x.link.tx) (handReply_port_ne s r a b pl hq)

theorem closed_unbegun : Closed Unbegun where
  refl _ := ⟨rfl, fun _ _ => rfl⟩
  trans := .trans
  handReply := handReply_unbegun
  post s p n := ⟨(post_offPorts s p n).restart, fun hrun _ => by rw [post_refused n (.inl hrun)]⟩
  fifo s p x := .of_link rfl (link_setFifo s p x)
  slot s p x := .of_link rfl (link_setSlot s p x)
  reports _ _ := .of_link rfl fun _ => rfl
  region _ _ _ _ _ _ _ := .of_link rfl fun _ => rfl
  quiet _ _ := .of_link rfl fun _ => rfl

theorem seqClosed_unbegun : SeqClosed Unbegun where
  refl := closed_unbegun.refl
  trans := .trans
  handReply := handReply_unbegun
  post := closed_unbegun.post
  fifo := closed_unbegun.fifo
  report := closed_unbegun.report
  seq _ _ := .of_link rfl fun _ => rfl
  memory _ _ := .of_link rfl fun _ => rfl
  hold _ _ := .of_link rfl fun _ => rfl
  now _ _ := .of_link rfl fun _ => rfl

/-- A warm restart that begins begins no frame. -/
theorem beginRestart_unbegun (s : State) (c : ResetCause) : Unbegun { s with restart := .begun c } (beginRestart s c) := by
  have hentry := seqClosed_unbegun.beginRetention { s with restart := .begun c } .restart
  have hreinit := hentry.trans (seqClosed_unbegun.seq _
    { (beginRetention { s with restart := .begun c } .restart).seq with reinit := none })
  exact hreinit.trans ((closed_unbegun.silenceAll _).trans (seqClosed_unbegun.settle _))

theorem exec_frameTransmitted {s : State} {p : Port} {x : Transmission} (htx : (s.link p).tx = some x) :
    (x.restart = true ∧ s.isRunning = true →
      exec (.frameTransmitted p) s = .next (beginRestart (s.setLink p { s.link p with tx := none }) .command)) ∧
    (x.restart = false ∨ s.isRunning = false →
      exec (.frameTransmitted p) s = .next (arbitrate (s.setLink p { s.link p with tx := none }) p)) := by
  have hexec : exec (.frameTransmitted p) s = execFrameTransmitted p s := rfl
  rw [hexec, execFrameTransmitted, htx]
  refine ⟨fun ⟨hrestart, hrun⟩ => if_pos (by simp [hrestart, hrun]), fun hnot => if_neg ?_⟩
  obtain hnot | hnot := hnot <;> simp [hnot]

/-- Settles O19: the restart's beginning, or the arbiter's choice with the link free. -/
theorem theTransmitterTakesResponsesFirst : Obligations.TheTransmitterTakesResponsesFirst := by
  refine ⟨fun p x s htx hrun => ?_, fun p x s htx hrun => ⟨fun hrestart => ?_, fun hnot => ?_⟩⟩
  · exact ((exec_frameTransmitted htx).2 (.inr hrun)).trans (congrArg _ (arbitrate_stopped hrun))
  · have hbegun := beginRestart_unbegun (s.setLink p { s.link p with tx := none }) .command
    refine ⟨_, (exec_frameTransmitted htx).1 ⟨hrestart, hrun⟩, hbegun.1, (hbegun.2 rfl p).trans ?_⟩
    exact congrArg Link.tx (link_setLink_self s p { s.link p with tx := none })
  · have hexec := (exec_frameTransmitted htx).2 (.inl hnot)
    have hlink := link_setLink_self s p { s.link p with tx := none }
    have hnotices := notices_setLink s p { s.link p with tx := none } p
    have hrun' : (s.setLink p { s.link p with tx := none }).isRunning = true := hrun
    refine ⟨fun r rest hr => ?_, fun hr hn => ?_, fun n rest hr hc hn => ?_⟩
    · rw [hexec, arbitrate_response hrun' (by rw [hlink]) (by rw [hlink]; exact hr), hlink, setLink_setLink]
    · rw [hexec, arbitrate_nothing (by rw [hlink]; exact hr) (by rw [hlink, hnotices]; exact hn)]
    · rw [arbitrate_notice hrun' (by rw [hlink]) (by rw [hlink]; exact hr) (by rw [hlink]; exact hc)
        (by rw [hnotices, hn])] at hexec
      have hsent := sendNotice_sent (s.setLink p { s.link p with tx := none }) p n rest
      refine ⟨_, hexec, (setLink_offPorts _ _ _).trans hsent.off, fun q hq => ?_, ?_, ?_, ?_, ?_, ?_⟩
      · exact (hsent.others q hq).trans (port_setPort_ne _ _ hq)
      · exact hsent.session.trans (session_setLink _ _ _ _)
      · exact hsent.fifo.trans (fifo_setLink _ _ _ _)
      · exact hsent.slot.trans (slot_setLink _ _ _ _)
      · rw [hsent.notices, hnotices]
      · rw [hsent.link, hlink, hnotices]

end Sys2Proof.Machine
end

section
/-! PROOFS. What the Lease Directory's operations leave, said for every relation that holds across a record written back,
a notice and, where they give replies, a reply: no FIFO, no slot and no session but through a revocation. -/

namespace Sys2Proof.Machine

/-! ### Notices and records -/

/-- A relation between states that holds across every notice and every change of a region's record. -/
structure TableClosed (R : State → State → Prop) : Prop where
  refl : ∀ s, R s s
  trans : ∀ {s t u}, R s t → R t u → R s u
  post : ∀ s p n, R s (Machine.post s p n)
  region : ∀ s i x, R s (s.setRegion i x)

namespace TableClosed

variable {R : State → State → Prop} (h : TableClosed R)
include h

theorem foldl {α : Type} (f : State → α → State) (hf : ∀ s x, R s (f s x)) :
    ∀ (l : List α) (s : State), R s (l.foldl f s)
  | [], s => h.refl s
  | x :: l, s => h.trans (hf s x) (foldl f hf l (f s x))

theorem postEntry (s : State) (p : Port) (m : SessNo) (lost : Bool) (n : Notice) :
    R s (Machine.postEntry s p m lost n) := by
  unfold Machine.postEntry
  split
  · exact h.post s p n
  · exact h.refl s

theorem editRegion (s : State) (i : RegionId) (f : Region → Region) : R s (s.editRegion i f) := by
  unfold State.editRegion
  split
  · exact h.region s i _
  · exact h.refl s

theorem postYield (i : RegionId) (d : Option Nat) (s : State) (x : Holder) : R s (Machine.postYield i d s x) := by
  unfold Machine.postYield
  split
  · exact h.refl s
  · exact h.postEntry s _ _ _ _

theorem enterRecalling (s : State) (i : RegionId) (r : Region) : R s (Machine.enterRecalling s i r) :=
  h.trans (h.region s i _) (h.foldl _ (h.postYield i _) _ _)

theorem cancelRecall (s : State) (i : RegionId) (r : Region) : R s (Machine.cancelRecall s i r) :=
  h.trans (h.region s i _) (h.foldl _ (fun t _ => h.postEntry t _ _ _ _) _ _)

theorem offerHead (s : State) (i : RegionId) (r : Region) : R s (Machine.offerHead s i r) := by
  unfold Machine.offerHead
  split
  · exact h.refl s
  · exact h.trans (h.region s i _) (h.postEntry _ _ _ _ _)

theorem triggerPass : ∀ (fuel : Nat) (s : State) (i : RegionId), R s (Machine.triggerPass fuel s i)
  | 0, s, _ => h.refl s
  | fuel + 1, s, i => by
    have hagain : ∀ t, R t (Machine.triggerPass fuel t i) := fun t => triggerPass fuel t i
    unfold Machine.triggerPass
    split
    · exact h.refl s
    · next r _ =>
      repeat' split
      case isTrue => exact h.refl s
      case isFalse.isTrue => exact h.trans (h.cancelRecall s i r) (hagain _)
      case isFalse.isFalse.isTrue => exact h.enterRecalling s i r
      case isFalse.isFalse.isFalse.isTrue => exact h.trans (h.offerHead s i r) (hagain _)
      case isFalse.isFalse.isFalse.isFalse.isTrue => exact h.trans (h.offerHead s i r) (hagain _)
      case isFalse.isFalse.isFalse.isFalse.isFalse.isTrue => exact h.region s i _
      case isFalse.isFalse.isFalse.isFalse.isFalse.isFalse => exact h.refl s

theorem trigger (s : State) (i : RegionId) : R s (Machine.trigger s i) := h.triggerPass _ _ _

theorem removeHolder (s : State) (i : RegionId) (x : Holder) : R s (Machine.removeHolder s i x) := h.editRegion s i _

theorem settleRegion (s : State) (i : RegionId) : R s (Machine.settleRegion s i) :=
  h.trans (h.editRegion s i _) (h.trigger _ i)

theorem postFenced (s : State) (i : RegionId) (p : Port) (q : List Claim) : R s (Machine.postFenced s i p q) :=
  h.trans (h.post s _ _) (h.foldl _ (fun t _ => h.postEntry t _ _ _ _) _ _)

theorem removeLost (s : State) (i : RegionId) (x : Holder) : R s (Machine.removeLost s i x) := by
  unfold Machine.removeLost
  split
  · exact h.refl s
  · split
    · exact h.trans (h.region s i _) (h.postFenced _ _ _ _)
    · exact h.trans (h.region s i _) (h.settleRegion _ i)

theorem loseRegion (p : Port) (n : SessNo) (s : State) (i : RegionId) : R s (Machine.loseRegion p n s i) := by
  unfold Machine.loseRegion
  split
  · exact h.refl s
  · dsimp only
    split
    · exact h.refl s
    · split
      · split
        · exact h.trans (h.region s i _) (h.removeLost _ i _)
        · exact h.trans (h.region s i _) (h.trigger _ i)
      · exact h.trans (h.region s i _) (h.trigger _ i)

theorem loseLeases (s : State) (p : Port) (n : SessNo) : R s (Machine.loseLeases s p n) :=
  h.foldl _ (h.loseRegion p n) _ _

theorem leaveRegion (p : Port) (n : SessNo) (s : State) (i : RegionId) : R s (Machine.leaveRegion p n s i) := by
  unfold Machine.leaveRegion
  split
  · exact h.refl s
  · dsimp only
    split
    · exact h.refl s
    · exact h.trans (h.region s i _) (h.trigger _ i)

theorem leaveLeases (s : State) (p : Port) (n : SessNo) : R s (Machine.leaveLeases s p n) :=
  h.foldl _ (h.leaveRegion p n) _ _

end TableClosed

/-! ### Replies -/

/-- … and across every reply. -/
structure DirClosed (R : State → State → Prop) : Prop extends TableClosed R where
  handReply : ∀ s r b c pl, R s (Machine.handReply s r b c pl)

namespace DirClosed

variable {R : State → State → Prop} (h : DirClosed R)
include h

theorem reply (s : State) (r : ReplyTo) (pl : List Byte) : R s (Machine.reply s r pl) := h.handReply _ _ _ _ _

theorem answer (s : State) (r : ReplyTo) (st : Status) : R s (Machine.answer s r st) := h.handReply _ _ _ _ _

theorem postAll (s : State) (n : Notice) : R s (Machine.postAll s n) := h.foldl _ (fun t p => h.post t p n) _ _

theorem answerReleases (s : State) (x : Holder) (st : Status) : R s (Machine.answerReleases s x st) :=
  h.foldl _ (fun t q => h.answer t q st) _ _

theorem removeRevoked (s : State) (i : RegionId) (x : Holder) : R s (Machine.removeRevoked s i x) := by
  unfold Machine.removeRevoked
  split
  · exact h.refl s
  · exact h.trans (h.removeHolder s i x)
      (h.trans (h.answerReleases _ x _) (h.trans (h.postEntry _ _ _ _ _) (h.settleRegion _ i)))

/-- A request that names no region is answered. -/
theorem withRegion (s : State) (q : Request) (b : Byte) (act : RegionId → Region → State)
    (ha : ∀ i r, R s (act i r)) : R s (Machine.withRegion s q b act) := by
  unfold Machine.withRegion
  split
  · exact ha _ _
  · exact h.answer s _ _

theorem withFields {α : Type} (s : State) (q : Request) (rd : List Byte → Option α) (act : α → State)
    (ha : ∀ f, R s (act f)) : Leads R s (Machine.withFields s q rd act) := by
  unfold Machine.withFields
  split
  · exact .next (ha _)
  · exact .next (h.answer s _ _)

theorem serveWithdraw (s : State) (q : Request) (b : Byte) : R s (Machine.serveWithdraw s q b) := by
  refine h.withRegion s q b _ fun i r => ?_
  split
  · exact h.trans (h.region s i _) (h.trans (h.answer _ _ _) (h.trigger _ i))
  · exact h.answer s _ _

theorem serveRelease (s : State) (q : Request) (b : Byte) : R s (Machine.serveRelease s q b) := by
  refine h.withRegion s q b _ fun i r => ?_
  split
  · next x _ =>
    have hmark : ∀ t, R s (Machine.markRelease s i x t) := fun t => h.editRegion s i _
    unfold Machine.releaseHolder
    split
    · exact hmark _
    · split
      · exact h.answer s _ _
      · split
        · exact hmark _
        · exact h.trans (h.removeHolder s i x) (h.trans (h.answer _ _ _) (h.settleRegion _ i))
  · exact h.answer s _ _

theorem serveUnfence (s : State) (q : Request) (b : Byte) : R s (Machine.serveUnfence s q b) := by
  refine h.withRegion s q b _ fun i r => ?_
  split
  · exact h.trans (h.region s i _) (h.trans (h.reply _ _ _) (h.trigger _ i))
  · exact h.answer s _ _

theorem serveDefine (s : State) (q : Request) (f : DefineFields) : R s (Machine.serveDefine s q f) := by
  unfold Machine.serveDefine
  split
  · dsimp only
    split
    · exact h.answer s _ _
    · split
      · exact h.answer s _ _
      · exact h.trans (h.region s _ _) (h.reply _ _ _)
  · exact h.answer s _ _

theorem serveAlter (s : State) (q : Request) (f : AlterFields) : R s (Machine.serveAlter s q f) := by
  refine h.withRegion s q f.id _ fun i r => ?_
  split
  · exact h.answer s _ _
  · exact h.trans (h.region s i _) (h.answer _ _ _)

theorem serveDelete (s : State) (q : Request) (b : Byte) : R s (Machine.serveDelete s q b) := by
  refine h.withRegion s q b _ fun i r => ?_
  split
  · exact h.trans (h.region s i _) (h.answer _ _ _)
  · exact h.answer s _ _

end DirClosed

/-! ### Revocation -/

/-- … and across every end of a transaction. -/
structure RevokeClosed (R : State → State → Prop) : Prop extends DirClosed R where
  fifo : ∀ s p x, R s (s.setFifo p x)
  report : ∀ s p e, R s (Machine.report s p e)
  quiet : ∀ s x, R s { s with seq := { s.seq with srRef := x } }

namespace RevokeClosed

variable {R : State → State → Prop} (h : RevokeClosed R)
include h

theorem endEntry (s : State) (p : Port) (e : Entry) (pl : Option (List Byte)) (x : Bool) :
    R s (Machine.endEntry s p e pl x) := by
  have hquiet : ∀ t, R t (Machine.report (markQuiet t e) p e) := fun t => by
    refine h.trans ?_ (h.report _ p e)
    unfold markQuiet
    split
    · exact h.quiet t _
    · exact h.refl t
  unfold Machine.endEntry
  split
  · exact h.trans (h.handReply s _ _ _ _) (hquiet _)
  · exact hquiet s

theorem stopStarted (s : State) (p : Port) (o : StopOrder) (sel : Entry → Bool) : R s (Machine.stopStarted s p o sel) := by
  unfold Machine.stopStarted
  split
  · exact h.refl s
  · split
    · dsimp only
      split
      · exact h.trans (h.fifo s p _) (h.endEntry _ _ _ _ _)
      · exact h.fifo s p _
    · exact h.refl s

theorem cancelFrom (p : Port) (hit : Entry → Bool) (pl : Option (List Byte)) :
    ∀ (l kept : List Entry) (s : State), R s (Machine.cancelFrom p hit pl kept l s)
  | [], _, s => h.refl s
  | e :: l, kept, s => by
    rw [Machine.cancelFrom]
    split
    · exact h.trans (h.fifo s p _) (h.trans (h.endEntry _ _ _ _ _) (cancelFrom p hit pl l _ _))
    · exact cancelFrom p hit pl l _ s

theorem revokeHolder (i : RegionId) (s : State) (x : Holder) : R s (Machine.revokeHolder i s x) := by
  have hcancel : ∀ t, R t (revokeEntries t x.port x.session i) := fun t =>
    h.trans (h.stopStarted t _ _ _) (h.cancelFrom _ _ _ _ _ _)
  unfold Machine.revokeHolder
  dsimp only
  split
  · exact h.trans (h.editRegion s i _) (h.trans (hcancel _) (h.removeRevoked _ i _))
  · exact h.trans (h.editRegion s i _) (hcancel _)

theorem revokeAll (s : State) (i : RegionId) (r : Region) : R s (Machine.revokeAll s i r) :=
  h.foldl _ (h.revokeHolder i) _ _

theorem revokeJoined (s : State) (i : RegionId) (x : Holder) (under : Bool) : R s (Machine.revokeJoined s i x under) := by
  unfold Machine.revokeJoined
  split
  · exact h.revokeHolder i s x
  · exact h.refl s

theorem serveClaim (s : State) (q : Request) (f : ClaimFields) : R s (Machine.serveClaim s q f) := by
  refine h.withRegion s q f.id _ fun i r => ?_
  split
  · next m n _ _ =>
    split
    · exact h.answer s _ _
    · split
      · exact h.answer s _ _
      · split
        · exact h.trans (h.region s i _) (h.trans (h.reply _ _ _) (h.trans (h.trigger _ i) (h.revokeJoined _ i _ _)))
        · exact h.trans (h.region s i _) (h.trans (h.reply _ _ _) (h.trigger _ i))
  · exact h.answer s _ _

theorem serveAccept (s : State) (q : Request) (b : Byte) : R s (Machine.serveAccept s q b) := by
  refine h.withRegion s q b _ fun i r => ?_
  split
  · next o _ =>
    have hyield : ∀ t x, R t (yieldToJoined t i r x) := fun t x => by
      unfold yieldToJoined
      split
      · exact h.postYield i _ t x
      · exact h.refl t
    exact h.trans (h.region s i _) (h.trans (h.reply _ _ _)
      (h.trans (hyield _ _) (h.trans (h.trigger _ i) (h.revokeJoined _ i _ _))))
  · exact h.answer s _ _

theorem serveRevoke (hsettle : ∀ t, R t (settle t)) (s : State) (q : Request) (b : Byte) :
    R s (Machine.serveRevoke s q b) := by
  refine h.withRegion s q b _ fun i r => ?_
  have hheld : R s (revokeHeld s q i r) :=
    h.trans (h.region s i _) (h.trans (h.answer _ _ _) (h.trans (h.revokeAll _ i r) (hsettle _)))
  split
  case h_4 => exact hheld
  case h_5 => exact hheld
  case h_6 => exact hheld
  all_goals exact h.answer s _ _

end RevokeClosed

end Sys2Proof.Machine
end

section
/-! PROOFS. What the 24 requests leave unchanged. -/

namespace Sys2Proof.Machine

/-! ### The frame of a request -/

/-- The kinds that can change a region's record. -/
abbrev regionKinds : List Kind :=
  [.hello, .evictPort, .defineRegion, .alterRegion, .deleteRegion, .claim, .accept, .withdraw, .release, .revoke, .unfence]

/-- The kinds that can change a FIFO. -/
abbrev fifoKinds : List Kind := [.hello, .evictPort, .claim, .accept, .revoke, .read, .write, .fill]

/-- What a request of a kind, taken on a port, leaves as it was. -/
structure Frames (k : Kind) (p : Port) (s t : State) : Prop where
  setting : { t with
    ports := s.ports, params := s.params, restart := s.restart, memory := s.memory, regions := s.regions
    retentionHold := s.retentionHold, reports := s.reports, seq := s.seq } = s
  params : k ≠ .setParam → t.params = s.params
  restart : k ∉ [Kind.hello, .evictPort] → t.restart = s.restart
  memory : k ∉ [Kind.hello, .evictPort, .reinit] → t.memory = s.memory
  regions : k ∉ regionKinds → t.regions = s.regions
  fifo : k ∉ fifoKinds → ∀ q, t.fifo q = s.fifo q
  slot : k ∉ [Kind.hello, .evictPort, .read, .write, .fill] → ∀ q, t.slot q = s.slot q
  others : k ≠ .evictPort → ∀ q, q ≠ p → t.session q = s.session q
  own : k ∉ [Kind.hello, .leave, .evictPort] → t.session p = s.session p

/-- Only the links and the notices differ. -/
structure OnlyLinks (s t : State) : Prop where
  off : OffPorts s t
  session : ∀ q, t.session q = s.session q
  fifo : ∀ q, t.fifo q = s.fifo q
  slot : ∀ q, t.slot q = s.slot q

theorem handReply_onlyLinks (s : State) (r : ReplyTo) (a b : Bool) (pl : List Byte) :
    OnlyLinks s (handReply s r a b pl) :=
  ⟨handReply_offPorts s r a b pl, handReply_session s r a b pl, handReply_fifo s r a b pl, handReply_slot s r a b pl⟩

theorem post_onlyLinks (s : State) (p : Port) (n : Notice) : OnlyLinks s (post s p n) :=
  ⟨post_offPorts s p n, post_session s p n, post_fifo s p n, post_slot s p n⟩

theorem Refused.onlyLinks {s t : State} {p : Port} {f : Frame} (h : Refused s t p f) : OnlyLinks s t := by
  obtain ⟨hsession, -, hfifo, hslot⟩ := h.port
  refine ⟨h.rest, fun q => ?_, fun q => ?_, fun q => ?_⟩
  all_goals
    by_cases hq : q = p
    · subst hq
      assumption
  · exact congrArg PortState.session (h.others q hq)
  · exact congrArg PortState.fifo (h.others q hq)
  · exact congrArg PortState.slot (h.others q hq)

theorem takeTag_onlyLinks (s : State) (p : Port) (u : Tag) : OnlyLinks s (takeTag s p u) :=
  ⟨takeTag_offPorts s p u, session_setLink s p _, fifo_setLink s p _, slot_setLink s p _⟩

section
variable {k : Kind} {p : Port}

theorem OnlyLinks.frames {s t : State} (h : OnlyLinks s t) : Frames k p s t where
  setting := by
    have hoff := h.off
    cases s; cases t
    simp only [OffPorts, State.mk.injEq] at hoff ⊢
    simp_all
  params _ := h.off.params
  restart _ := h.off.restart
  memory _ := h.off.memory
  regions _ := h.off.regions
  fifo _ := h.fifo
  slot _ := h.slot
  others _ q _ := h.session q
  own _ := h.session p

theorem Frames.refl (s : State) : Frames k p s s :=
  ⟨rfl, fun _ => rfl, fun _ => rfl, fun _ => rfl, fun _ => rfl, fun _ _ => rfl, fun _ _ => rfl, fun _ _ _ => rfl,
    fun _ => rfl⟩

theorem Frames.trans {s t u : State} (h : Frames k p s t) (g : Frames k p t u) : Frames k p s u where
  setting := by
    have h1 := h.setting; have g1 := g.setting
    cases s; cases t; cases u
    simp only [State.mk.injEq] at h1 g1 ⊢
    simp_all
  params hk := (g.params hk).trans (h.params hk)
  restart hk := (g.restart hk).trans (h.restart hk)
  memory hk := (g.memory hk).trans (h.memory hk)
  regions hk := (g.regions hk).trans (h.regions hk)
  fifo hk q := (g.fifo hk q).trans (h.fifo hk q)
  slot hk q := (g.slot hk q).trans (h.slot hk q)
  others hk q hq := (g.others hk q hq).trans (h.others hk q hq)
  own hk := (g.own hk).trans (h.own hk)

/-- An update of the Sequencer's record and the retention hold. -/
theorem Frames.sequencer (s : State) (q : Sequencer) (b : Bool) :
    Frames k p s { s with seq := q, retentionHold := b } :=
  ⟨rfl, fun _ => rfl, fun _ => rfl, fun _ => rfl, fun _ => rfl, fun _ _ => rfl, fun _ _ => rfl, fun _ _ _ => rfl,
    fun _ => rfl⟩

theorem Frames.reported (s : State) (q : Port) (e : Entry) : Frames k p s (report s q e) := by
  unfold report
  split
  · exact ⟨rfl, fun _ => rfl, fun _ => rfl, fun _ => rfl, fun _ => rfl, fun _ _ => rfl, fun _ _ => rfl,
      fun _ _ _ => rfl, fun _ => rfl⟩
  · exact .refl s

theorem Frames.queued (hk : k ∈ fifoKinds) (s : State) (q : Port) (l : List Entry) : Frames k p s (s.setFifo q l) :=
  ⟨rfl, fun _ => rfl, fun _ => rfl, fun _ => rfl, fun _ => rfl, fun hnot => absurd hk hnot,
    fun _ => slot_setFifo s q l, fun _ r _ => session_setFifo s q l r, fun _ => session_setFifo s q l p⟩

theorem Frames.recorded (hk : k ∈ regionKinds) (s : State) (i : RegionId) (x : Option Region) :
    Frames k p s (s.setRegion i x) :=
  ⟨rfl, fun _ => rfl, fun _ => rfl, fun _ => rfl, fun hnot => absurd hk hnot, fun _ _ => rfl, fun _ _ => rfl,
    fun _ _ _ => rfl, fun _ => rfl⟩

theorem frames_dirClosed (hk : k ∈ regionKinds) : DirClosed (Frames k p) where
  refl := .refl
  trans := .trans
  post s q n := (post_onlyLinks s q n).frames
  region := .recorded hk
  handReply s r b c pl := (handReply_onlyLinks s r b c pl).frames

theorem frames_revokeClosed (hr : k ∈ regionKinds) (hf : k ∈ fifoKinds) : RevokeClosed (Frames k p) where
  toDirClosed := frames_dirClosed hr
  fifo := .queued hf
  report := .reported
  quiet s x := .sequencer s { s.seq with srRef := x } s.retentionHold

/-- The work of the Sequencer, for the kinds that may change a FIFO. -/
theorem OnlyWork.frames {s t : State} (hk : k ∈ fifoKinds) (h : OnlyWork s t) : Frames k p s t where
  setting := by
    have hoff := h.rest
    cases s; cases t
    simp only [State.mk.injEq] at hoff ⊢
    simp_all
  params _ := h.offEngine.params
  restart _ := h.offEngine.restart
  memory _ := h.offEngine.memory
  regions _ := h.offEngine.regions
  fifo hnot := absurd hk hnot
  slot _ := h.slot
  others _ q _ := h.session q
  own _ := h.session p

/-! ### Transactions -/

theorem serveTx_frames {x : TxKind} (hk : k = x.kind) (s : State) (q : Request) :
    Leads (Frames k p) s (serveTx s x q) := by
  have hfifo : k ∈ fifoKinds := by cases x <;> simp [hk, TxKind.kind]
  have hanswer : ∀ st, Frames k p s (answer s q.replyTo st) := fun st => (handReply_onlyLinks s q.replyTo _ _ _).frames
  have hadmit : ∀ r e, Frames k p s (admitTx s r e) := fun r e => by
    have harbiter : Frames k p s (arbiter s) := (OnlyWork.closed.arbiter s).frames hfifo
    have hidle : ∀ t, Frames k p t (wakeForHeads (updateIdle t)) := fun t =>
      ((OnlyWork.closed.updateIdle t).trans (OnlyWork.closed.wakeForHeads _)).frames hfifo
    exact harbiter.trans ((Frames.queued hfifo _ r _).trans (hidle _))
  have htake : Frames k p s (takeTx s x q) := by
    unfold takeTx
    split
    · exact hanswer _
    · split
      · split
        · exact hanswer _
        · split
          · exact hanswer _
          · split
            · exact hanswer _
            · exact hadmit _ _
      · exact hanswer _
  unfold serveTx
  split
  · exact .next htake
  · split
    · refine .next ⟨rfl, fun _ => rfl, fun _ => rfl, fun _ => rfl, fun _ => rfl, fun _ => fifo_setSlot s _ _,
        fun hnot => absurd ?_ hnot, fun _ r _ => session_setSlot s _ _ r, fun _ => session_setSlot s _ _ p⟩
      cases x <;> simp [hk, TxKind.kind]
    · exact .fault _

end

/-! ### Losses and restarts -/

section
variable {k : Kind} {p : Port} (hk : k = .hello ∨ k = .evictPort)
include hk

theorem frames_closed : Closed (Frames k p) where
  refl := .refl
  trans := .trans
  handReply s r b c pl := (handReply_onlyLinks s r b c pl).frames
  post s q n := (post_onlyLinks s q n).frames
  fifo := .queued (by obtain rfl | rfl := hk <;> simp)
  slot s q x := ⟨rfl, fun _ => rfl, fun _ => rfl, fun _ => rfl, fun _ => rfl, fun _ => fifo_setSlot s q x,
    fun hnot => absurd (by obtain rfl | rfl := hk <;> simp) hnot, fun _ r _ => session_setSlot s q x r,
    fun _ => session_setSlot s q x p⟩
  reports s x := ⟨rfl, fun _ => rfl, fun _ => rfl, fun _ => rfl, fun _ => rfl, fun _ _ => rfl, fun _ _ => rfl,
    fun _ _ _ => rfl, fun _ => rfl⟩
  region s i r r' _ _ _ := .recorded (by obtain rfl | rfl := hk <;> simp) s i _
  quiet s x := .sequencer s { s.seq with srRef := x } s.retentionHold

/-- The tables of a port written anew, for HELLO those of the request's own port. -/
theorem setPort_frames {v : Port} (hv : k = .evictPort ∨ v = p) (s : State) (x : PortState) :
    Frames k p s (s.setPort v x) where
  setting := rfl
  params _ := rfl
  restart _ := rfl
  memory _ := rfl
  regions _ := rfl
  fifo hnot := absurd (by obtain rfl | rfl := hk <;> simp) hnot
  slot hnot := absurd (by obtain rfl | rfl := hk <;> simp) hnot
  others hne q hq := by
    obtain hv | rfl := hv
    · exact absurd hv hne
    · exact congrArg PortState.session (port_setPort_ne s x hq)
  own hnot := absurd (by obtain rfl | rfl := hk <;> simp) hnot

theorem loseSession_frames {v : Port} (hv : k = .evictPort ∨ v = p) (s : State) (c : LossCause) (keep : Option Tag) :
    Frames k p s (loseSession s v c keep) := by
  have hclosed := frames_closed (p := p) hk
  have hlost := (setPort_frames hk hv s _ : Frames k p s (closeLost s v keep)).trans
    ((hclosed.loseEntries (closeLost s v keep) v (s.session v).number).trans (hclosed.loseLeases _ v (s.session v).number))
  unfold loseSession
  dsimp only
  split
  · exact hlost
  · exact hlost.trans (hclosed.postSupervisor _ _)

/-- A warm restart that begins leaves the pins, the temperature and the clock. -/
theorem beginRestart_frames (s : State) (c : ResetCause) : Frames k p s (beginRestart s c) := by
  have hfifo : k ∈ fifoKinds := by obtain rfl | rfl := hk <;> simp
  have hkeeps := seqClosed_keepsRest.beginRetention { s with restart := .begun c } .restart
  have hthermal := seqClosed_thermal.beginRetention { s with restart := .begun c } .restart
  have hclock := seqClosed_clock.beginRetention { s with restart := .begun c } .restart
  have hnow := beginRetention_now { s with restart := .begun c } .restart
  have hentry : Frames k p s (beginRetention { s with restart := .begun c } .restart) := by
    generalize beginRetention { s with restart := .begun c } .restart = t at hkeeps hthermal hclock hnow
    refine ⟨?_, fun _ => (congrArg State.params hkeeps.rest :), fun hnot => absurd ?_ hnot, fun hnot => absurd ?_ hnot,
      fun _ => (congrArg State.regions hkeeps.rest :), fun hnot => absurd hfifo hnot, fun _ => hkeeps.slot,
      fun _ q _ => hkeeps.session q, fun _ => hkeeps.session p⟩
    · have hrest := hkeeps.rest
      cases s; cases t
      simp only [State.mk.injEq] at hrest hthermal hclock hnow ⊢
      simp_all
    · obtain rfl | rfl := hk <;> simp
    · obtain rfl | rfl := hk <;> simp
  exact hentry.trans ((Frames.sequencer _ { (beginRetention { s with restart := .begun c } .restart).seq with
    reinit := none } _).trans (((frames_closed hk).silenceAll _).trans ((settle_onlyWork _).frames hfifo)))

theorem restartIf_frames (s : State) (due : Bool) : Frames k p s (restartIf s due) := by
  unfold restartIf
  split
  · exact beginRestart_frames hk s _
  · exact .refl s

end

theorem serveHello_frames (s : State) (q : Request) (f : HelloFields) :
    Frames .hello q.replyTo.port s (serveHello s q f) := by
  have hopen : ∀ t, Frames .hello q.replyTo.port t (openAndReply t q f) := fun t =>
    (setPort_frames (.inl rfl) (.inr rfl) t _ :
      Frames .hello q.replyTo.port t (openSession t q.replyTo.port q.replyTo.tag f.credit f.label)).trans
      (handReply_onlyLinks _ _ _ _ _).frames
  unfold serveHello
  dsimp only
  split
  · exact (handReply_onlyLinks s _ _ _ _).frames
  · split
    · exact (loseSession_frames (.inl rfl) (.inr rfl) s _ _).trans (((settle_onlyWork _).frames (by simp)).trans
        ((hopen _).trans (restartIf_frames (.inl rfl) _ _)))
    · exact hopen s

theorem serveEvict_frames (p : Port) (s : State) (q : Request) (b : Byte) :
    Frames .evictPort p s (serveEvict s q b) := by
  have hanswer : ∀ st, Frames .evictPort p s (answer s q.replyTo st) := fun st =>
    (handReply_onlyLinks s q.replyTo _ _ _).frames
  unfold serveEvict
  split
  · exact hanswer _
  · split
    · exact hanswer _
    · dsimp only
      split
      · exact (hanswer _).trans ((loseSession_frames (.inr rfl) (.inl rfl) _ _ _).trans
          (((settle_onlyWork _).frames (by simp)).trans (restartIf_frames (.inr rfl) _ _)))
      · exact hanswer _

/-! ### Parameters and recovery -/

theorem serveSetParam_frames (p : Port) (s : State) (q : Request) (f : SetParamFields) :
    Frames .setParam p s (serveSetParam s q f) := by
  have hanswer : ∀ t st, Frames .setParam p t (answer t q.replyTo st) := fun t st =>
    (handReply_onlyLinks t q.replyTo _ _ _).frames
  have hcause : ∀ t c, Frames .setParam p t (pdCause t c) := fun t c => by
    unfold pdCause actPdCause leavePowerDown beginWake
    repeat' split
    all_goals exact .sequencer t _ t.retentionHold
  unfold serveSetParam
  split
  · exact hanswer s _
  · next x _ =>
    split
    · have hstored : Frames .setParam p s { s with params := s.params.store x f.value } :=
        ⟨rfl, fun hne => absurd rfl hne, fun _ => rfl, fun _ => rfl, fun _ => rfl, fun _ _ => rfl, fun _ _ => rfl,
          fun _ _ _ => rfl, fun _ => rfl⟩
      refine hstored.trans (Frames.trans ?_ (hanswer _ _))
      unfold storeEffect
      split
      · exact hcause _ _
      · exact .refl _
    · exact hanswer s _

theorem serveReinit_frames (p : Port) (s : State) (q : Request) : Frames .reinit p s (serveReinit s q) := by
  have hinit : ∀ m r, Frames .reinit p s { s with memory := m, seq := r } := fun m r =>
    ⟨rfl, fun _ => rfl, fun _ => rfl, fun hnot => absurd (by simp) hnot, fun _ => rfl, fun _ _ => rfl, fun _ _ => rfl,
      fun _ _ _ => rfl, fun _ => rfl⟩
  unfold serveReinit
  split
  · next t ht =>
    have haccepted : Frames .reinit p s t := by
      unfold acceptReinit at ht
      repeat' split at ht
      all_goals cases ht
      all_goals exact hinit _ _
    exact haccepted.trans (.sequencer t _ t.retentionHold)
  · exact (handReply_onlyLinks s _ _ _ _).frames

theorem serveResume_frames (p : Port) (s : State) (q : Request) : Frames .resume p s (serveResume s q) := by
  have hanswer : ∀ st, Frames .resume p s (answer s q.replyTo st) := fun st =>
    (handReply_onlyLinks s q.replyTo _ _ _).frames
  unfold serveResume
  split
  · exact hanswer _
  · dsimp only
    split
    · exact (hanswer _).trans (.sequencer _ _ false)
    · exact hanswer _

theorem serveClearSuspect_frames (p : Port) (s : State) (q : Request) :
    Frames .clearSuspect p s (serveClearSuspect s q) := by
  have hposted : ∀ (l : List Port) (t : State) n, Frames .clearSuspect p t (l.foldl (fun t q => post t q n) t) := by
    intro l
    induction l with
    | nil => exact fun t _ => .refl t
    | cons r l ih => exact fun t n => (post_onlyLinks t r n).frames.trans (ih _ n)
  unfold serveClearSuspect
  split
  · exact (Frames.sequencer s { s.seq with condition := .retained } s.retentionHold).trans
      ((handReply_onlyLinks _ _ _ _ _).frames.trans (hposted _ _ _))
  · exact (handReply_onlyLinks s _ _ _ _).frames

/-! ### Every request -/

theorem withFields_frames {k : Kind} {p : Port} {α : Type} {s : State} {q : Request} (rd : List Byte → Option α)
    {act : α → State} (ha : ∀ f, Frames k p s (act f)) : Leads (Frames k p) s (withFields s q rd act) := by
  unfold withFields
  split
  · exact .next (ha _)
  · exact .next (handReply_onlyLinks s _ _ _ _).frames

theorem ownerOf_frames (k : Kind) (s : State) (q : Request) : Leads (Frames k q.replyTo.port) s (ownerOf k s q) := by
  have hreply : ∀ {k p} pl, Frames k p s (reply s q.replyTo pl) := fun pl => (handReply_onlyLinks s _ _ _ pl).frames
  cases k
  case hello => exact withFields_frames _ fun f => serveHello_frames s q f
  case leave =>
    exact withFields_frames _ fun _ => ⟨rfl, fun _ => rfl, fun _ => rfl, fun _ => rfl, fun _ => rfl,
      fun _ => fifo_setSession s _ _, fun _ => slot_setSession s _ _, fun _ r hr => session_setSession_ne s _ _ hr,
      fun hnot => absurd (by simp) hnot⟩
  case ping => exact withFields_frames _ fun _ => hreply _
  case status => exact withFields_frames _ fun _ => hreply _
  case setParam => exact withFields_frames _ fun f => serveSetParam_frames _ s q f
  case getParam =>
    refine withFields_frames _ fun b => ?_
    unfold serveGetParam
    split <;> exact hreply _
  case defineRegion => exact withFields_frames _ fun f => (frames_dirClosed (by simp)).serveDefine s q f
  case alterRegion => exact withFields_frames _ fun f => (frames_dirClosed (by simp)).serveAlter s q f
  case deleteRegion => exact withFields_frames _ fun b => (frames_dirClosed (by simp)).serveDelete s q b
  case queryRegion =>
    refine withFields_frames _ fun b => ?_
    unfold serveQuery withRegion
    split <;> exact hreply _
  case claim => exact withFields_frames _ fun f => (frames_revokeClosed (by simp) (by simp)).serveClaim s q f
  case accept => exact withFields_frames _ fun b => (frames_revokeClosed (by simp) (by simp)).serveAccept s q b
  case withdraw => exact withFields_frames _ fun b => (frames_dirClosed (by simp)).serveWithdraw s q b
  case release => exact withFields_frames _ fun b => (frames_dirClosed (by simp)).serveRelease s q b
  case revoke =>
    exact withFields_frames _ fun b => (frames_revokeClosed (by simp) (by simp)).serveRevoke
      (fun t => (settle_onlyWork t).frames (by simp)) s q b
  case unfence => exact withFields_frames _ fun b => (frames_dirClosed (by simp)).serveUnfence s q b
  case read => exact serveTx_frames rfl s q
  case write => exact serveTx_frames rfl s q
  case fill => exact serveTx_frames rfl s q
  case reinit => exact withFields_frames _ fun _ => serveReinit_frames _ s q
  case resume => exact withFields_frames _ fun _ => serveResume_frames _ s q
  case clearSuspect => exact withFields_frames _ fun _ => serveClearSuspect_frames _ s q
  case restart => exact withFields_frames _ fun _ => (handReply_onlyLinks s _ _ _ _).frames
  case evictPort => exact withFields_frames _ fun b => serveEvict_frames _ s q b

/-- A request that is heard leaves, after the good frame's report, what its kind's frame says. -/
theorem request_frames {k : Kind} {p : Port} {tb : Byte} {pl : List Byte} {s t : State} (h : Hears s p)
    (hl : pl.length ≤ 320) (hexec : exec (requestCommand k p tb pl) s = .next t) : Frames k p (reportGood s p) t := by
  rw [exec_requestCommand, request, receive_heard s p _ _ h hl, routeRequest] at hexec
  split at hexec
  · cases hexec
    exact (refused_handRefusal _ _ _ _).onlyLinks.frames
  · have htaken : Frames k p (reportGood s p) (takeTag (reportGood s p) p (tagOf tb)) :=
      (takeTag_onlyLinks _ _ _).frames
    dsimp only at hexec
    split at hexec
    · cases hexec
      exact htaken.trans (handReply_onlyLinks _ _ _ _ _).frames
    · exact htaken.trans (ownerOf_frames k _ _ t hexec)

/-- Settles O12: the frame of the kind, after the good frame's report, which changes the port's link and timer. -/
theorem requestsKeepTheRest : Obligations.RequestsKeepTheRest := by
  intro k p tb pl s t h hl hexec
  have hframes := request_frames h hl hexec
  have hgood := reportGood_offPorts s p
  have hset := hframes.setting
  refine ⟨(congrArg State.now hset :).trans hgood.now, (congrArg State.pending hset :).trans hgood.pending,
    (congrArg State.resetPin hset :).trans hgood.resetPin, (congrArg State.straps hset :).trans hgood.straps,
    (congrArg State.supervisor hset :).trans hgood.supervisor, (congrArg State.bootCause hset :).trans hgood.bootCause,
    (congrArg State.thermal hset :).trans hgood.thermal, (congrArg State.clock hset :).trans hgood.clock,
    fun hk => (hframes.params hk).trans hgood.params, fun hk => (hframes.restart hk).trans hgood.restart,
    fun hk => (hframes.memory hk).trans hgood.memory, fun hk => (hframes.regions hk).trans hgood.regions,
    fun hk q => (hframes.fifo hk q).trans (reportGood_fifo s p q),
    fun hk q => (hframes.slot hk q).trans (reportGood_slot s p q), fun hk q hq => ?_, hframes.own⟩
  exact (hframes.others hk q hq).trans (congrArg PortState.session (reportGood_port_ne s hq))

end Sys2Proof.Machine
end

section
/-! PROOFS. What the loss and the orderly end of a session leave of the regions (R26, R87 to R91). -/

namespace Sys2Proof.Machine

/-! ### What the recall trigger keeps of a record -/

/-- A property of records that the recall trigger keeps: one of the queue, the offer and the holders, in which the
head of the queue may become the offer. -/
structure TriggerKeeps (P : Region → Prop) : Prop where
  state : ∀ r st d, P r → P { r with state := st, recallDeadline := d }
  offer : ∀ r c rest o st d, r.queue = c :: rest → o.port = c.port → o.session = c.session → P r →
    P { r with queue := rest, offer := some o, state := st, recallDeadline := d }

theorem cancelRecall_region (s : State) (i : RegionId) (r : Region) :
    (cancelRecall s i r).region i = some { r with state := stateOfHolders r, recallDeadline := none } := by
  have hoff := OffPorts.foldl (fun t (h : Holder) => postEntry t h.port h.session h.lost (.yieldCancelled i))
    (fun t h => postEntry_offPorts t _ _ _ _) r.holders
    (s.setRegion i (some { r with state := stateOfHolders r, recallDeadline := none }))
  exact (hoff.region i).trans (region_setRegion_self _ _ _)

theorem offerHead_record {s : State} {i : RegionId} {r : Region} {c : Claim} {rest : List Claim}
    (hq : r.queue = c :: rest) : ∃ o st d, o.port = c.port ∧ o.session = c.session ∧
      (offerHead s i r).region i = some { r with queue := rest, offer := some o, state := st, recallDeadline := d } := by
  unfold offerHead
  rw [hq]
  exact ⟨_, _, _, rfl, rfl, ((postEntry_offPorts _ _ _ _ _).region i).trans (region_setRegion_self _ _ _)⟩

section
variable {P : Region → Prop} (h : TriggerKeeps P) {i : RegionId}
include h

theorem triggerPass_keeps : ∀ (fuel : Nat) (s : State) (r : Region), s.region i = some r → P r →
    ∃ r', (triggerPass fuel s i).region i = some r' ∧ P r'
  | 0, _, r, hr, hP => ⟨r, hr, hP⟩
  | fuel + 1, s, r, hr, hP => by
    have hoffers : ∀ c rest, r.queue = c :: rest →
        ∃ r', (triggerPass fuel (offerHead s i r) i).region i = some r' ∧ P r' := fun c rest hq => by
      obtain ⟨o, st, d, hport, hsession, hoffered⟩ := offerHead_record (s := s) (i := i) hq
      exact triggerPass_keeps fuel _ _ hoffered (h.offer r c rest o st d hq hport hsession hP)
    simp only [triggerPass, hr]
    by_cases hfenced : r.state = .fenced
    · rw [if_pos hfenced]
      exact ⟨r, hr, hP⟩
    rw [if_neg hfenced]
    by_cases hcancel : r.state = .recalling ∧ (!headConflicts r) = true
    · rw [if_pos hcancel]
      exact triggerPass_keeps fuel _ _ (cancelRecall_region s i r) (h.state r _ _ hP)
    rw [if_neg hcancel]
    by_cases hrecall : headConflicts r = true ∧ r.state ≠ .recalling
    · rw [if_pos hrecall]
      exact ⟨_, enterRecalling_region s i r, h.state r _ _ hP⟩
    rw [if_neg hrecall]
    by_cases hhead : r.holders = [] ∧ r.offer = none ∧ r.queue ≠ []
    · rw [if_pos hhead]
      obtain ⟨c, rest, hq⟩ := List.exists_cons_of_ne_nil hhead.2.2
      exact hoffers c rest hq
    rw [if_neg hhead]
    by_cases hshared : r.state = .shared ∧ r.offer = none ∧ headShared r = true
    · rw [if_pos hshared]
      cases hq : r.queue with
      | nil => simp [headShared_of_empty hq] at hshared
      | cons c rest => exact hoffers c rest hq
    rw [if_neg hshared]
    by_cases hfree : r.holders = [] ∧ r.offer = none ∧ r.queue = []
    · rw [if_pos hfree]
      exact ⟨_, region_setRegion_self s i _, h.state r _ _ hP⟩
    · rw [if_neg hfree]
      exact ⟨r, hr, hP⟩

theorem trigger_keeps {s : State} {r : Region} (hr : s.region i = some r) (hP : P r) :
    ∃ r', (trigger s i).region i = some r' ∧ P r' := triggerPass_keeps h _ s r hr hP

theorem settleRegion_keeps {s : State} {r : Region} (hr : s.region i = some r) (hP : P r) :
    ∃ r', (settleRegion s i).region i = some r' ∧ P r' := by
  have hresolved : P (resolve r) := by
    unfold resolve
    split
    · exact h.state r _ _ hP
    · exact hP
  refine trigger_keeps h ?_ hresolved
  rw [editRegion_some _ hr, region_setRegion_self]

end

/-! ### Records without a session -/

/-- The session has no claim, no offer and no live lease on the region. -/
structure Without (p : Port) (n : SessNo) (r : Region) : Prop where
  claims : claimIn r p (some n) = false
  offer : offerIn r p (some n) = none
  leases : ∀ h ∈ r.holders, h.isOf p n = false

section
variable {p : Port} {n : SessNo}

theorem claimIn_eq_false_iff {r : Region} : claimIn r p (some n) = false ↔ ∀ c ∈ r.queue, ¬ (c.port = p ∧ c.session = n) := by
  simp only [claimIn, List.any_eq_false, Bool.and_eq_true, decide_eq_true_eq, Option.some.injEq]

theorem offerIn_eq_none_iff {r : Region} :
    offerIn r p (some n) = none ↔ ∀ o, r.offer = some o → ¬ (o.port = p ∧ o.session = n) := by
  unfold offerIn
  split
  · next o ho => simp [ho]
  · next ho => simp [ho]

theorem triggerKeeps_without : TriggerKeeps (Without p n) where
  state _ _ _ h := ⟨h.claims, h.offer, h.leases⟩
  offer r c rest o st d hq hport hsession h := by
    have hclaims := claimIn_eq_false_iff.mp h.claims
    rw [hq] at hclaims
    refine ⟨claimIn_eq_false_iff.mpr fun x hx => hclaims x (List.mem_cons_of_mem c hx),
      offerIn_eq_none_iff.mpr fun x hx => ?_, h.leases⟩
    obtain rfl := Option.some.inj hx
    rw [hport, hsession]
    exact hclaims c List.mem_cons_self

theorem TriggerKeeps.and {P Q : Region → Prop} (h : TriggerKeeps P) (g : TriggerKeeps Q) :
    TriggerKeeps fun r => P r ∧ Q r where
  state r st d hr := ⟨h.state r st d hr.1, g.state r st d hr.2⟩
  offer r c rest o st d hq hport hsession hr :=
    ⟨h.offer r c rest o st d hq hport hsession hr.1, g.offer r c rest o st d hq hport hsession hr.2⟩

/-- The trigger changes no holder and no epoch. -/
theorem triggerKeeps_holders (P : List Holder → BitVec 16 → Prop) : TriggerKeeps fun r => P r.holders r.epoch where
  state _ _ _ h := h
  offer _ _ _ _ _ _ _ _ _ h := h

theorem resolve_leaves (r : Region) :
    (resolve r).queue = r.queue ∧ (resolve r).offer = r.offer ∧ (resolve r).holders = r.holders ∧
      (resolve r).epoch = r.epoch := by
  unfold resolve
  split <;> exact ⟨rfl, rfl, rfl, rfl⟩

theorem Without.of_leaves {r r' : Region} (h : Without p n r) (hq : r'.queue = r.queue) (ho : r'.offer = r.offer)
    (hh : r'.holders = r.holders) : Without p n r' where
  claims := claimIn_eq_false_iff.mpr fun c hc => claimIn_eq_false_iff.mp h.claims c (hq ▸ hc)
  offer := offerIn_eq_none_iff.mpr fun o hx => offerIn_eq_none_iff.mp h.offer o (ho ▸ hx)
  leases x hx := h.leases x (hh ▸ hx)

theorem eraseClaim_mem {q : List Claim} {c : Claim} (h : c ∈ eraseClaim p n q) : ¬ (c.port = p ∧ c.session = n) := by
  have := List.of_mem_filter h
  rw [not_and_or]
  simpa using this

theorem eraseClaim_eq_self {r : Region} (h : claimIn r p (some n) = false) : eraseClaim p n r.queue = r.queue := by
  refine List.filter_eq_self.mpr fun c hc => ?_
  have := claimIn_eq_false_iff.mp h c hc
  rw [not_and_or] at this
  simpa using this

/-- The offer without the session's. -/
theorem offer_without {r : Region} {o : Offer} (h : (if (offerIn r p (some n)).isSome then none else r.offer) = some o) :
    ¬ (o.port = p ∧ o.session = n) := by
  split at h
  · cases h
  · next hnone =>
    exact offerIn_eq_none_iff.mp (Option.not_isSome_iff_eq_none.mp hnone) o h

/-! ### A lost session -/

/-- The record as the loss writes it, before it resolves (R87 to R90). -/
def lostRecord (p : Port) (n : SessNo) (r : Region) : Region :=
  { r with
    queue := eraseClaim p n r.queue
    offer := if (offerIn r p (some n)).isSome then none else r.offer
    holders := (r.holders.filter fun h => !(h.isOf p n && decide (h.mode = .shared))).map
      fun h => if h.isOf p n then { h with lost := true } else h }

theorem loseInRecord_eq (r : Region) :
    loseInRecord p n r = if r.holders = [] then lostRecord p n r else resolve (lostRecord p n r) := rfl

theorem lostRecord_without (r : Region) : Without p n (lostRecord p n r) where
  claims := claimIn_eq_false_iff.mpr fun _ hc => eraseClaim_mem hc
  offer := offerIn_eq_none_iff.mpr fun _ ho => offer_without ho
  leases h hh := by
    obtain ⟨x, -, rfl⟩ := List.mem_map.mp hh
    split
    · simp [Holder.isOf]
    · next hx => exact Bool.eq_false_iff.mpr hx

theorem isOf_false_of_other {h : Holder} (hother : h.port ≠ p ∨ h.session ≠ n) : h.isOf p n = false := by
  obtain hp | hn := hother
  · simp [Holder.isOf, hp]
  · simp [Holder.isOf, hn]

theorem lostRecord_others (r : Region) : ∀ h ∈ r.holders, (h.port ≠ p ∨ h.session ≠ n) → h ∈ (lostRecord p n r).holders := by
  intro h hh hother
  have hnot := isOf_false_of_other hother
  refine List.mem_map.mpr ⟨h, List.mem_filter.mpr ⟨hh, by simp [hnot]⟩, ?_⟩
  simp [hnot]

theorem loseInRecord_leaves (r : Region) :
    (loseInRecord p n r).queue = (lostRecord p n r).queue ∧ (loseInRecord p n r).offer = (lostRecord p n r).offer ∧
      (loseInRecord p n r).holders = (lostRecord p n r).holders ∧ (loseInRecord p n r).epoch = r.epoch := by
  rw [loseInRecord_eq]
  split
  · exact ⟨rfl, rfl, rfl, rfl⟩
  · obtain ⟨hq, ho, hh, he⟩ := resolve_leaves (lostRecord p n r)
    exact ⟨hq, ho, hh, he⟩

theorem lostRecord_same {r : Region} (h : Without p n r) : lostRecord p n r = r := by
  have hoffer : (if (offerIn r p (some n)).isSome then none else r.offer) = r.offer := by rw [h.offer]; rfl
  have hfilter : (r.holders.filter fun x => !(x.isOf p n && decide (x.mode = .shared))) = r.holders :=
    List.filter_eq_self.mpr fun x hx => by simp [h.leases x hx]
  have hmap : (r.holders.map fun x => if x.isOf p n then { x with lost := true } else x) = r.holders :=
    (List.map_congr_left fun x hx => by simp [h.leases x hx]).trans (List.map_id r.holders)
  rw [lostRecord, eraseClaim_eq_self h.claims, hoffer, hfilter, hmap]

theorem resolve_of_held {r : Region} (h : r.holders ≠ []) : resolve r = r := if_neg h

theorem loseInRecord_same {r : Region} (h : Without p n r) : loseInRecord p n r = r := by
  rw [loseInRecord_eq, lostRecord_same h]
  split
  · rfl
  · next hh => exact resolve_of_held hh

/-- What the loss leaves of a record, whatever the trigger does after it. -/
def LosesHere (p : Port) (n : SessNo) (r r' : Region) : Prop :=
  Without p n r' ∧ ∀ h ∈ r.holders, (h.port ≠ p ∨ h.session ≠ n) → h ∈ r'.holders

theorem triggerKeeps_losesHere (r : Region) : TriggerKeeps (LosesHere p n r) :=
  triggerKeeps_without.and
    (triggerKeeps_holders fun hs _ => ∀ h ∈ r.holders, (h.port ≠ p ∨ h.session ≠ n) → h ∈ hs)

theorem loseInRecord_losesHere (r : Region) : LosesHere p n r (loseInRecord p n r) := by
  obtain ⟨hq, ho, hh, -⟩ := loseInRecord_leaves (p := p) (n := n) r
  exact ⟨(lostRecord_without r).of_leaves hq ho hh, fun h hmem hother => hh ▸ lostRecord_others r h hmem hother⟩

/-- The lost holder among the holders. -/
def isLost (p : Port) (n : SessNo) (h : Holder) : Bool := h.lost && decide (h.port = p) && decide (h.session = n)

theorem LosesHere.erase {r r' : Region} {h : Holder} (hl : LosesHere p n r r') (hh : isLost p n h = true)
    (d : Option Nat) (st : RegionState) :
    LosesHere p n r { r' with holders := eraseHolder h r'.holders, recallDeadline := d, state := st } := by
  obtain ⟨hwithout, hothers⟩ := hl
  simp only [isLost, Bool.and_eq_true, decide_eq_true_eq] at hh
  refine ⟨⟨hwithout.claims, hwithout.offer, fun x hx => hwithout.leases x (List.mem_filter.mp hx).1⟩,
    fun x hx hother => List.mem_filter.mpr ⟨hothers x hx hother, ?_⟩⟩
  rw [Bool.not_eq_true', Holder.same, hh.1.2, hh.2]
  obtain hp | hn := hother
  · simp [hp]
  · simp [hn]

theorem postFenced_offPorts (s : State) (i : RegionId) (q : Port) (l : List Claim) : OffPorts s (postFenced s i q l) :=
  (postSupervisor_offPorts s _).trans (OffPorts.foldl _ (fun t _ => postEntry_offPorts t _ _ _ _) _ _)

theorem removeLost_losesHere {s : State} {i : RegionId} {r r' : Region} {h : Holder} (hr : s.region i = some r')
    (hl : LosesHere p n r r') (hh : isLost p n h = true) :
    ∃ r'', (removeLost s i h).region i = some r'' ∧ LosesHere p n r r'' := by
  unfold removeLost
  rw [hr]
  dsimp only
  split
  · exact ⟨_, ((postFenced_offPorts _ _ _ _).region i).trans (region_setRegion_self _ _ _), hl.erase hh _ _⟩
  · exact settleRegion_keeps (triggerKeeps_losesHere r) (region_setRegion_self _ _ _) (hl.erase hh none r'.state)

theorem loseRegion_none {s : State} {i : RegionId} (hr : s.region i = none) : loseRegion p n s i = s := by
  unfold loseRegion
  rw [hr]

theorem loseRegion_same {s : State} {i : RegionId} {r : Region} (hr : s.region i = some r) (h : Without p n r) :
    loseRegion p n s i = s := by
  unfold loseRegion
  rw [hr]
  exact if_pos (loseInRecord_same h)

/-- The loss of a session in one region (R87 to R91). -/
theorem loseRegion_record {s : State} {i : RegionId} {r : Region} (hr : s.region i = some r) :
    ∃ r', (loseRegion p n s i).region i = some r' ∧ RegionLosesSession r r' p n := by
  have hkeeps := triggerKeeps_losesHere (p := p) (n := n) r
  have hin := loseInRecord_losesHere (p := p) (n := n) r
  have hset := region_setRegion_self s i (some (loseInRecord p n r))
  have hlost : ∃ r', (loseRegion p n s i).region i = some r' ∧ LosesHere p n r r' := by
    unfold loseRegion
    rw [hr]
    dsimp only
    split
    · next hsame => exact ⟨r, hr, by rwa [hsame] at hin⟩
    · split
      · next h hfind =>
        have hh : isLost p n h = true := List.find?_some hfind
        split
        · exact removeLost_losesHere hset hin hh
        · exact trigger_keeps hkeeps hset hin
      · exact trigger_keeps hkeeps hset hin
  obtain ⟨r', hr', hwithout, hothers⟩ := hlost
  refine ⟨r', hr', hwithout.claims, hwithout.offer, hwithout.leases, hothers, fun hc ho hh => ?_⟩
  rw [loseRegion_same hr ⟨hc, ho, hh⟩, hr] at hr'
  exact (Option.some.inj hr').symm

/-- An EXCLUSIVE lease alone, with nothing of its session in the FIFO, goes to its loss_action at once (R91). -/
theorem loseRegion_resolves {s : State} {i : RegionId} {r : Region} {h : Holder} (hr : s.region i = some r)
    (hh : r.holders = [h]) (ho : r.offer = none) (his : h.isOf p n = true) (hmode : h.mode = .exclusive)
    (hfifo : s.fifo p = []) :
    ∃ r', (loseRegion p n s i).region i = some r' ∧ ResolvesLost r r' p n s.params.acceptWindowMs s.now := by
  have hport : h.port = p ∧ h.session = n ∧ h.lost = false := by
    simpa [Holder.isOf, and_assoc] using his
  have hoffer : (if (offerIn r p (some n)).isSome then none else r.offer) = r.offer := by rw [ho]; simp
  have hrec : loseInRecord p n r =
      { r with queue := eraseClaim p n r.queue, holders := [{ h with lost := true }] } := by
    have hlost : lostRecord p n r = { r with queue := eraseClaim p n r.queue, holders := [{ h with lost := true }] } := by
      rw [lostRecord, hoffer, hh]
      simp [his, hmode]
    rw [loseInRecord_eq, if_neg (by simp [hh]), hlost]
    exact resolve_of_held (by simp)
  have hne : loseInRecord p n r ≠ r := fun hsame => by
    have hholders := congrArg Region.holders (hrec.symm.trans hsame)
    rw [hh] at hholders
    have := congrArg Holder.lost (List.cons.inj hholders).1
    simp [hport.2.2] at this
  have hcount : countOn (s.setRegion i (some (loseInRecord p n r))) p i = 0 :=
    countOn_eq_zero_iff.mpr fun e he => by
      have hnil : (s.setRegion i (some (loseInRecord p n r))).fifo p = [] := hfifo
      rw [hnil] at he
      cases he
  have hstep : loseRegion p n s i =
      removeLost (s.setRegion i (some (loseInRecord p n r))) i { h with lost := true } := by
    have hfind : (loseInRecord p n r).holders.find? (fun x => x.lost && decide (x.port = p) && decide (x.session = n))
        = some { h with lost := true } := by
      rw [hrec]
      simp [hport.1, hport.2.1]
    unfold loseRegion
    rw [hr]
    dsimp only
    rw [if_neg hne, hfind]
    exact if_pos hcount
  rw [hstep, removeLost, region_setRegion_self, hrec]
  dsimp only
  rw [eraseHolder_singleton]
  cases hl : r.lossAction with
  | fence =>
    refine ⟨_, ((postFenced_offPorts _ _ _ _).region i).trans (region_setRegion_self _ _ _), fun _ => ?_,
      fun hfree => ?_, fun _ _ hfree => ?_⟩
    · rw [hl]
    · rw [hl] at hfree
      cases hfree
    · rw [hl] at hfree
      cases hfree
  | free =>
    refine ⟨_, settleRegion_vacated (r := { r with
      queue := eraseClaim p n r.queue, recallDeadline := none, lossAction := .free }) (region_setRegion_self _ _ _) ho,
      fun hfence => ?_, fun _ hq => ?_, fun c rest _ hq => ?_⟩
    · rw [hl] at hfence
      cases hfence
    · simp [vacated, hq, hl]
    · simp [vacated, hq, hl]

/-- A SHARED lease alone, with nobody waiting, leaves the region FREE (R89). -/
theorem loseRegion_frees {s : State} {i : RegionId} {r : Region} {h : Holder} (hr : s.region i = some r)
    (hh : r.holders = [h]) (ho : r.offer = none) (hq : r.queue = []) (his : h.isOf p n = true)
    (hmode : h.mode = .shared) :
    (loseRegion p n s i).region i = some { r with holders := [], recallDeadline := none, state := .free } := by
  have hrec : loseInRecord p n r = { r with holders := [], recallDeadline := none, state := .free } := by
    have hlost : lostRecord p n r = { r with holders := [] } := by
      rw [lostRecord, ho, hh, hq]
      simp [his, hmode, eraseClaim]
    rw [loseInRecord_eq, if_neg (by simp [hh]), hlost, resolve, if_pos rfl, ho]
    rfl
  have hne : loseInRecord p n r ≠ r := fun hsame => by
    have hholders := congrArg Region.holders (hrec.symm.trans hsame)
    rw [hh] at hholders
    cases hholders
  have hstep : loseRegion p n s i = trigger (s.setRegion i (some (loseInRecord p n r))) i := by
    unfold loseRegion
    rw [hr]
    dsimp only
    rw [if_neg hne, hrec]
    rfl
  have hset := region_setRegion_self s i (some (loseInRecord p n r))
  rw [hrec] at hset
  rw [hstep, hrec, trigger_frees hset (by simp) (by simp) rfl ho hq, region_setRegion_self]

/-- An EXCLUSIVE lease with a transaction of its session in the FIFO stays, marked lost (R90). -/
theorem loseRegion_waits {s : State} {i : RegionId} {r : Region} {h : Holder} {e : Entry} (hr : s.region i = some r)
    (hh : r.holders = [h]) (his : h.isOf p n = true) (hmode : h.mode = .exclusive) (he : e ∈ s.fifo p)
    (hregion : e.region = i) :
    ∃ r', (loseRegion p n s i).region i = some r' ∧ r'.holders = [{ h with lost := true }] ∧ r'.epoch = r.epoch := by
  have hport : h.port = p ∧ h.session = n ∧ h.lost = false := by
    simpa [Holder.isOf, and_assoc] using his
  obtain ⟨-, -, hholders, hepoch⟩ := loseInRecord_leaves (p := p) (n := n) r
  have hlost : (lostRecord p n r).holders = [{ h with lost := true }] := by
    rw [lostRecord, hh]
    simp [his, hmode]
  rw [hlost] at hholders
  have hne : loseInRecord p n r ≠ r := fun hsame => by
    rw [hsame, hh] at hholders
    have := congrArg Holder.lost (List.cons.inj hholders).1
    simp [hport.2.2] at this
  have hcount : countOn (s.setRegion i (some (loseInRecord p n r))) p i ≠ 0 := fun hzero =>
    countOn_eq_zero_iff.mp hzero e he hregion
  have hstep : loseRegion p n s i = trigger (s.setRegion i (some (loseInRecord p n r))) i := by
    have hfind : (loseInRecord p n r).holders.find? (fun x => x.lost && decide (x.port = p) && decide (x.session = n))
        = some { h with lost := true } := by
      rw [hholders]
      simp [hport.1, hport.2.1]
    unfold loseRegion
    rw [hr]
    dsimp only
    rw [if_neg hne, hfind]
    exact if_neg hcount
  rw [hstep]
  exact trigger_keeps (triggerKeeps_holders fun hs ep => hs = [{ h with lost := true }] ∧ ep = r.epoch)
    (region_setRegion_self _ _ _) ⟨hholders, hepoch⟩

/-! ### An orderly end -/

/-- The record as the second phase of a LEAVE writes it, before it resolves (R26). -/
def leftRecord (p : Port) (n : SessNo) (r : Region) : Region :=
  { r with
    queue := eraseClaim p n r.queue
    offer := if (offerIn r p (some n)).isSome then none else r.offer
    holders := r.holders.filter fun h => !h.isOf p n }

theorem leaveRecord_eq (r : Region) :
    leaveRecord p n r = if r.holders = [] then leftRecord p n r else resolve (leftRecord p n r) := rfl

theorem leftRecord_without (r : Region) : Without p n (leftRecord p n r) where
  claims := claimIn_eq_false_iff.mpr fun _ hc => eraseClaim_mem hc
  offer := offerIn_eq_none_iff.mpr fun _ ho => offer_without ho
  leases h hh := by simpa using List.of_mem_filter hh

theorem leaveRecord_without (r : Region) : Without p n (leaveRecord p n r) := by
  rw [leaveRecord_eq]
  split
  · exact leftRecord_without r
  · obtain ⟨hq, ho, hh, -⟩ := resolve_leaves (leftRecord p n r)
    exact (leftRecord_without r).of_leaves hq ho hh

theorem leaveRegion_record {s : State} {i : RegionId} {r : Region} (hr : s.region i = some r) :
    ∃ r', (leaveRegion p n s i).region i = some r' ∧ Without p n r' := by
  unfold leaveRegion
  rw [hr]
  dsimp only
  split
  · next hsame => exact ⟨r, hr, hsame ▸ leaveRecord_without r⟩
  · exact trigger_keeps triggerKeeps_without (region_setRegion_self _ _ _) (leaveRecord_without r)

/-! ### One region at a time -/

theorem removeLost_onRegion (s : State) (i : RegionId) (h : Holder) : OnRegion i s (removeLost s i h) := by
  unfold removeLost
  split
  · exact .refl s
  · split
    · refine (OnRegion.setRegion s _).trans ((OnRegion.post _ _ _).trans (OnRegion.foldl _ (fun t c => ?_) _ _))
      exact OnRegion.postEntry t _ _ _ _
    · exact (OnRegion.setRegion s _).trans (OnRegion.settleRegion _)

theorem loseRegion_onRegion (s : State) (i : RegionId) : OnRegion i s (loseRegion p n s i) := by
  unfold loseRegion
  split
  · exact .refl s
  · dsimp only
    split
    · exact .refl s
    · split
      · split
        · exact (OnRegion.setRegion s _).trans (removeLost_onRegion _ i _)
        · exact (OnRegion.setRegion s _).trans (OnRegion.trigger _)
      · exact (OnRegion.setRegion s _).trans (OnRegion.trigger _)

theorem leaveRegion_onRegion (s : State) (i : RegionId) : OnRegion i s (leaveRegion p n s i) := by
  unfold leaveRegion
  split
  · exact .refl s
  · dsimp only
    split
    · exact .refl s
    · exact (OnRegion.setRegion s _).trans (OnRegion.trigger _)

end

/-- What a fold over all regions leaves of one region's record is what its step leaves there. -/
theorem foldl_allRegions {f : State → RegionId → State} (hf : ∀ s j, OnRegion j s (f s j)) (i : RegionId) (s : State) :
    ∃ u, (allRegions.foldl f s).region i = (f u i).region i ∧ u.region i = s.region i ∧ OffRegions s u ∧
      ∀ q, u.fifo q = s.fifo q := by
  have hfold : ∀ (l : List RegionId) (t : State), OffRegions t (l.foldl f t) ∧ (∀ q, (l.foldl f t).fifo q = t.fifo q) ∧
      (i ∉ l → (l.foldl f t).region i = t.region i) := by
    intro l
    induction l with
    | nil => exact fun t => ⟨rfl, fun _ => rfl, fun _ => rfl⟩
    | cons j l ih =>
      intro t
      obtain ⟨hoff, hfifo, hregion⟩ := ih (f t j)
      have hj := hf t j
      refine ⟨hj.off.trans hoff, fun q => (hfifo q).trans (hj.fifo q), fun hi => ?_⟩
      obtain ⟨hij, hil⟩ := not_or.mp (mt List.mem_cons.mpr hi)
      exact (hregion hil).trans (hj.others i hij)
  obtain ⟨before, after, hsplit⟩ := List.append_of_mem (List.mem_finRange i)
  have hnodup := List.nodup_finRange 32
  rw [hsplit, List.nodup_append] at hnodup
  obtain ⟨-, hafter, hdisjoint⟩ := hnodup
  obtain ⟨hoff, hfifo, hbefore⟩ := hfold before s
  refine ⟨before.foldl f s, ?_, hbefore fun hi => hdisjoint i hi i List.mem_cons_self rfl, hoff, hfifo⟩
  rw [allRegions, hsplit, List.foldl_append, List.foldl_cons]
  exact (hfold after _).2.2 (List.nodup_cons.mp hafter).1

end Sys2Proof.Machine
end

section
/-! PROOFS. LEAVE and the end of its drain (R25 to R27). -/

namespace Sys2Proof.Machine

/-! ### The second phase of the drain -/

/-- What the hand-back of the regions leaves: all but the tables by port and the region table, the sessions, and what is
in flight. -/
structure HandsBack (s t : State) : Prop where
  off : OffRegions s t
  session : ∀ q, t.session q = s.session q
  inFlight : ∀ q, (t.link q).inFlight = (s.link q).inFlight

theorem tableClosed_handsBack : TableClosed HandsBack where
  refl _ := ⟨rfl, fun _ => rfl, fun _ => rfl⟩
  trans h g := ⟨h.off.trans g.off, fun q => (g.session q).trans (h.session q), fun q => (g.inFlight q).trans (h.inFlight q)⟩
  post s p n := ⟨(post_offPorts s p n).offRegions, post_session s p n, post_inFlight s p n⟩
  region _ _ _ := ⟨rfl, fun _ => rfl, fun _ => rfl⟩

theorem leaveLeases_without (s : State) (p : Port) (n : SessNo) {i : RegionId} {r : Region}
    (hr : (leaveLeases s p n).region i = some r) : Without p n r := by
  obtain ⟨u, hfold, -, -, -⟩ := foldl_allRegions (f := leaveRegion p n) (leaveRegion_onRegion (p := p) (n := n)) i s
  rw [leaveLeases, hfold] at hr
  cases hu : u.region i with
  | none =>
    rw [leaveRegion, hu] at hr
    rw [hu] at hr
    cases hr
  | some x =>
    obtain ⟨r', hleft, hwithout⟩ := leaveRegion_record (p := p) (n := n) hu
    obtain rfl := Option.some.inj (hleft.symm.trans hr)
    exact hwithout

/-! ### The close -/

theorem cached_noReplies (u : Tag) : noReplies[u.val] = none := by simp [noReplies]

/-- The orderly close of a drained CLOSING session, whose LEAVE is in flight under it (R27). -/
structure ClosedOrderly (s t : State) (p : Port) (u : Tag) : Prop where
  rest : OffPorts s t
  session : t.session p = ⟨.closed, (s.session p).number, none, none⟩
  credit : (t.link p).credit = 0
  queue : (t.notices p).queue = []
  lost : (t.notices p).lost = 0
  otherTags : ∀ v, v ≠ u → (t.link p).entry v = (s.link p).entry v
  otherSlots : ∀ v, v ≠ u → (t.link p).cached v = none
  replied : Replied t ⟨p, u, some (s.session p).number, .leave⟩ [0x00]

theorem closeOrderly_closes {s : State} {p : Port} {u : Tag} (hlive : (s.session p).live = true)
    (hentry : (s.link p).entry u = .taken (some (s.session p).number)) : ClosedOrderly s (closeOrderly s p u) p u := by
  set cleared := s.setLink p { s.link p with cache := noReplies } with hcleared
  have hpresent : s.presentSession p = some (s.session p).number := if_pos hlive
  have hlink : cleared.link p = { s.link p with cache := noReplies } := link_setLink_self _ _ _
  have hacc : acceptsReply cleared ⟨p, u, some (s.session p).number, .leave⟩ = true := by
    have hkept : cleared.presentSession p = s.presentSession p := presentSession_congr (session_setLink _ _ _ _)
    have hin : (cleared.link p).entry u = .taken (some (s.session p).number) := by rw [hlink]; exact hentry
    simp [acceptsReply, hkept, hpresent, hin]
  have hanswered := answered_handReply cleared _ false false okPayload hacc
  have hclose : closeOrderly s p u =
      (handReply cleared ⟨p, u, some (s.session p).number, .leave⟩ false false okPayload).setPort p
        { (handReply cleared ⟨p, u, some (s.session p).number, .leave⟩ false false okPayload).port p with
          session := ((handReply cleared ⟨p, u, some (s.session p).number, .leave⟩ false false okPayload).session p).close
          link := { (handReply cleared ⟨p, u, some (s.session p).number, .leave⟩ false false okPayload).link p with
            credit := 0 }
          notices := ((handReply cleared ⟨p, u, some (s.session p).number, .leave⟩ false false okPayload).notices p).clear } := by
    rw [hcleared, ← hpresent]
    rfl
  generalize handReply cleared ⟨p, u, some (s.session p).number, .leave⟩ false false okPayload = t at hanswered hclose
  rw [hclose]
  have hsession : t.session p = s.session p := hanswered.port.1.trans (session_setLink _ _ _ _)
  refine ⟨OffPorts.trans (setLink_offPorts s p _) (hanswered.rest.trans (setPort_offPorts t p _)), ?_, ?_, ?_, ?_,
    fun v hv => ?_, fun v hv => ?_, ?_, ?_, ?_⟩
  · simp only [State.session, port_setPort_self]
    exact congrArg Session.close hsession
  · simp only [State.link, port_setPort_self]
  · simp only [State.notices, port_setPort_self]
    rfl
  · simp only [State.notices, port_setPort_self]
    rfl
  · have := hanswered.otherTags v hv
    rw [hlink] at this
    simp only [State.link, port_setPort_self]
    exact this
  · have := hanswered.otherSlots v hv
    rw [hlink] at this
    simp only [State.link, port_setPort_self]
    exact this.trans (cached_noReplies v)
  · simp only [State.link, port_setPort_self]
    exact hanswered.freed
  · simp only [State.link, port_setPort_self]
    exact hanswered.cached
  · have hsent := hanswered.replied.sent
    simp only [outgoing, State.link, port_setPort_self] at hsent ⊢
    exact hsent

/-! ### The commands -/

theorem leaveDrained_of {s : State} {p : Port} {u : Tag} (hfifo : s.fifo p = []) (hslot : s.slot p = none)
    (htags : ∀ v, v ≠ u → (s.link p).entry v = .free) : leaveDrained s p u = true := by
  have hall : (List.finRange 8).all (fun v => decide (v = u) || decide ((s.link p).entry v = .free)) = true := by
    refine List.all_eq_true.mpr fun v _ => ?_
    by_cases hv : v = u
    · simp [hv]
    · simp [htags v hv]
  simp only [leaveDrained, hfifo, hslot, hall, List.isEmpty_nil, Option.isNone_none, Bool.and_self]

theorem exec_leaveDrainEnd {s : State} {p : Port} {u : Tag} (hrun : s.isRunning = true)
    (hstate : (s.session p).state = .closing u) (hdrained : leaveDrained s p u = true) :
    exec (.leaveDrainEnd p) s = .next (closeOrderly (leaveLeases s p (s.session p).number) p u) := by
  have hexec : exec (.leaveDrainEnd p) s = execLeaveDrainEnd p s := rfl
  rw [hexec, execLeaveDrainEnd, hstate]
  exact if_pos (by simp [hrun, hdrained])

/-- Settles O24: LEAVE writes the session and keeps its tag; the drain's end hands the regions back and then closes. -/
theorem leaveDrainsAndClosesTheSession : Obligations.LeaveDrainsAndClosesTheSession := by
  refine ⟨fun p tb s h => ?_, fun p u s hrun hstate hfifo hslot htags hentry => ?_⟩
  · have hexec := exec_reaches (act := fun t q (_ : Unit) => serveLeave t q) h rfl (rfl : readEmpty [] = some ())
    have hsession : (afterTake s p tb).setSession p { (afterTake s p tb).session p with
        state := .closing (tagOf tb), silence := none } = (afterTake s p tb).setSession p
        ⟨.closing (tagOf tb), (s.session p).number, (s.session p).label, none⟩ := by
      rw [← afterTake_session_number s p tb p, ← afterTake_session_label s p tb p]
    exact hexec.trans (congrArg Host.Outcome.next hsession)
  · have hback := tableClosed_handsBack.leaveLeases s p (s.session p).number
    have hlive : ((leaveLeases s p (s.session p).number).session p).live = true := by
      rw [hback.session]
      simp [Session.live, hstate]
    have hin : ((leaveLeases s p (s.session p).number).link p).entry u
        = .taken (some ((leaveLeases s p (s.session p).number).session p).number) := by
      rw [hback.session, ← hentry, Link.entry, hback.inFlight]
      rfl
    have hclosed := closeOrderly_closes hlive hin
    have hreplied := hclosed.replied
    have hsession := hclosed.session
    rw [hback.session] at hreplied hsession
    refine ⟨_, exec_leaveDrainEnd hrun hstate (leaveDrained_of hfifo hslot htags),
      hback.off.trans hclosed.rest.offRegions, hsession, hclosed.credit, hclosed.queue, hclosed.lost, fun v => ?_,
      hclosed.otherSlots, hreplied, fun i r hr => ?_⟩
    · by_cases hv : v = u
      · rw [hv]
        exact hreplied.freed
      · rw [hclosed.otherTags v hv, Link.entry, hback.inFlight]
        exact htags v hv
    · have hwithout := leaveLeases_without s p _ ((hclosed.rest.region i).symm.trans hr)
      exact ⟨hwithout.claims, hwithout.offer, hwithout.leases⟩

end Sys2Proof.Machine
end

section
/-! PROOFS. The link of a lost session (R16, R33): nothing in the rest of the event reaches it. And a head with its
burst issued, which no cancellation and no arbiter moves (R107, R123). -/

namespace Sys2Proof.Machine

/-! ### A port that takes no reply and no notice -/

/-- The port takes no notice, and no reply of any request. -/
structure Shut (s : State) (p : Port) : Prop where
  notices : s.isRunning = false ∨ (s.session p).live = false
  replies : ∀ r, r.port = p → acceptsReply s r = false

/-- The port's link, notices and session are as they were. -/
structure SameLink (p : Port) (s t : State) : Prop where
  link : t.link p = s.link p
  notices : t.notices p = s.notices p
  session : t.session p = s.session p

theorem SameLink.trans {p : Port} {s t u : State} (h : SameLink p s t) (g : SameLink p t u) : SameLink p s u :=
  ⟨g.link.trans h.link, g.notices.trans h.notices, g.session.trans h.session⟩

theorem SameLink.of_port {p : Port} {s t : State} (h : t.port p = s.port p) : SameLink p s t :=
  ⟨congrArg PortState.link h, congrArg PortState.notices h, congrArg PortState.session h⟩

theorem Shut.of_same {p : Port} {s t : State} (h : Shut s p) (hrestart : t.restart = s.restart) (hsame : SameLink p s t) :
    Shut t p where
  notices := by
    rw [hsame.session, State.isRunning, hrestart]
    exact h.notices
  replies r hr := by
    subst hr
    rw [acceptsReply_of (congrArg Link.inFlight hsame.link) hsame.session]
    exact h.replies r rfl

/-- The beginning of a restart shuts a port that takes no reply. -/
theorem shut_restarted {p : Port} {s : State} (h : ∀ r, r.port = p → acceptsReply s r = false) (c : ResetCause) :
    Shut { s with restart := .begun c } p :=
  ⟨.inl rfl, fun r hr => (acceptsReply_congr rfl r).trans (h r hr)⟩

/-- With no entry in flight, a port takes no reply. -/
theorem acceptsReply_of_free {s : State} {r : ReplyTo} (h : ∀ u, (s.link r.port).entry u = .free) :
    acceptsReply s r = false := by simp [acceptsReply, h]

/-- The rest of the event leaves a shut port's link as it stands. -/
def KeepsShut (p : Port) (s t : State) : Prop := t.restart = s.restart ∧ (Shut s p → SameLink p s t)

section
variable {p : Port}

theorem KeepsShut.refl (s : State) : KeepsShut p s s := ⟨rfl, fun _ => ⟨rfl, rfl, rfl⟩⟩

theorem KeepsShut.trans {s t u : State} (h : KeepsShut p s t) (g : KeepsShut p t u) : KeepsShut p s u :=
  ⟨g.1.trans h.1, fun hs => (h.2 hs).trans (g.2 (hs.of_same h.1 (h.2 hs)))⟩

theorem KeepsShut.shut {s t : State} (h : KeepsShut p s t) (hs : Shut s p) : Shut t p := hs.of_same h.1 (h.2 hs)

theorem handReply_keepsShut (s : State) (r : ReplyTo) (a b : Bool) (pl : List Byte) :
    KeepsShut p s (handReply s r a b pl) := by
  refine ⟨(handReply_offPorts s r a b pl).restart, fun hs => ?_⟩
  by_cases hp : p = r.port
  · have hrefused : handReply s r a b pl = s := if_neg (by simp [hs.replies r hp.symm])
    rw [hrefused]
    exact ⟨rfl, rfl, rfl⟩
  · exact .of_port (handReply_port_ne s r a b pl hp)

theorem post_keepsShut (s : State) (q : Port) (n : Notice) : KeepsShut p s (post s q n) := by
  refine ⟨(post_offPorts s q n).restart, fun hs => ?_⟩
  by_cases hp : p = q
  · subst hp
    rw [post_refused n hs.notices]
    exact ⟨rfl, rfl, rfl⟩
  · exact .of_port (post_port_ne s q n hp)

theorem closed_keepsShut : Closed (KeepsShut p) where
  refl := .refl
  trans := .trans
  handReply := handReply_keepsShut
  post := post_keepsShut
  fifo s q x := ⟨rfl, fun _ => ⟨link_setFifo s q x p, notices_setFifo s q x p, session_setFifo s q x p⟩⟩
  slot s q x := ⟨rfl, fun _ => ⟨link_setSlot s q x p, notices_setSlot s q x p, session_setSlot s q x p⟩⟩
  reports _ _ := ⟨rfl, fun _ => ⟨rfl, rfl, rfl⟩⟩
  region _ _ _ _ _ _ _ := ⟨rfl, fun _ => ⟨rfl, rfl, rfl⟩⟩
  quiet _ _ := ⟨rfl, fun _ => ⟨rfl, rfl, rfl⟩⟩

theorem seqClosed_keepsShut : SeqClosed (KeepsShut p) where
  refl := .refl
  trans := .trans
  handReply := handReply_keepsShut
  post := post_keepsShut
  fifo := closed_keepsShut.fifo
  report := closed_keepsShut.report
  seq _ _ := ⟨rfl, fun _ => ⟨rfl, rfl, rfl⟩⟩
  memory _ _ := ⟨rfl, fun _ => ⟨rfl, rfl, rfl⟩⟩
  hold _ _ := ⟨rfl, fun _ => ⟨rfl, rfl, rfl⟩⟩
  now _ _ := ⟨rfl, fun _ => ⟨rfl, rfl, rfl⟩⟩

end

/-! ### The steps of a loss and of a restart -/

/-- What the Engine's and the Directory's steps of a loss respect, they respect together (R33, steps 2 to 4). -/
theorem loseSession_closed {R : State → State → Prop} (h : Closed R) (s : State) (p : Port) (c : LossCause)
    (keep : Option Tag) : R (closeLost s p keep) (loseSession s p c keep) := by
  have hlost := h.trans (h.loseEntries (closeLost s p keep) p (s.session p).number)
    (h.loseLeases _ p (s.session p).number)
  unfold loseSession
  dsimp only
  split
  · exact hlost
  · exact h.trans hlost (h.postSupervisor _ _)

/-- What the steps of a warm restart's beginning respect (R172). -/
theorem beginRestart_closed {R : State → State → Prop} (h : Closed R) (g : SeqClosed R) (s : State) (c : ResetCause) :
    R { s with restart := .begun c } (beginRestart s c) :=
  g.trans (g.beginRetention _ .restart) (g.trans (g.seq _ _) (g.trans (h.silenceAll _) (g.settle _)))

theorem restartIf_closed {R : State → State → Prop} (h : Closed R) (g : SeqClosed R)
    (hrestart : ∀ s c, R s { s with restart := .begun c }) (s : State) (due : Bool) : R s (restartIf s due) := by
  unfold restartIf
  split
  · exact g.trans (hrestart s .command) (beginRestart_closed h g s .command)
  · exact g.refl s

theorem restartIf_sameLink {p : Port} {s : State} (hs : ∀ r, r.port = p → acceptsReply s r = false) (due : Bool) :
    SameLink p s (restartIf s due) := by
  unfold restartIf
  split
  · have hbegun : SameLink p s { s with restart := .begun .command } := ⟨rfl, rfl, rfl⟩
    exact hbegun.trans ((beginRestart_closed closed_keepsShut seqClosed_keepsShut s .command).2 (shut_restarted hs _))
  · exact ⟨rfl, rfl, rfl⟩

/-- The port as step 1 of R33 leaves it. -/
structure LinkLost (s t : State) (p : Port) (keep : Option Tag) : Prop where
  link : t.link p = (s.link p).lose keep
  notices : t.notices p = (s.notices p).clear
  session : t.session p = (s.session p).close

theorem closeLost_lost (s : State) (p : Port) (keep : Option Tag) : LinkLost s (closeLost s p keep) p keep := by
  constructor <;> simp only [closeLost, State.link, State.notices, State.session, port_setPort_self]

theorem LinkLost.of_same {s t u : State} {p : Port} {keep : Option Tag} (h : LinkLost s t p keep)
    (hsame : SameLink p t u) : LinkLost s u p keep :=
  ⟨hsame.link.trans h.link, hsame.notices.trans h.notices, hsame.session.trans h.session⟩

theorem entry_lose_none (l : Link) (u : Tag) : (l.lose none).entry u = .free := by
  simp [Link.lose, Link.entry, allFree]

theorem entry_lose_some (l : Link) {v u : Tag} (h : u ≠ v) : (l.lose (some v)).entry u = .free := by
  have hval : v.val ≠ u.val := fun heq => h (Fin.ext heq.symm)
  simp [Link.lose, Link.entry, allFree, hval]

theorem entry_lose_kept (l : Link) (v : Tag) : (l.lose (some v)).entry v = l.entry v := by
  simp [Link.lose, Link.entry]

theorem cached_lose (l : Link) (keep : Option Tag) (u : Tag) : (l.lose keep).cached u = none := cached_noReplies u

/-- A lost port is shut: no entry is in flight but, for a new HELLO, one under the session that was. -/
theorem LinkLost.shut {s t : State} {p : Port} {keep : Option Tag} (h : LinkLost s t p keep)
    (hkeep : ∀ u, keep = some u → (s.link p).entry u ≠ .taken none) : Shut t p where
  notices := .inr (by rw [h.session]; rfl)
  replies r hr := by
    subst hr
    have hpresent : t.presentSession r.port = none := by
      unfold State.presentSession
      rw [h.session]
      rfl
    have hentry : (t.link r.port).entry r.tag ≠ .taken none := by
      rw [h.link]
      cases keep with
      | none =>
        rw [entry_lose_none]
        exact nofun
      | some u =>
        by_cases hu : r.tag = u
        · rw [hu, entry_lose_kept]
          exact hkeep u rfl
        · rw [entry_lose_some _ hu]
          exact nofun
    unfold acceptsReply
    rw [hpresent, Bool.and_eq_false_iff, decide_eq_false_iff_not, decide_eq_false_iff_not]
    by_cases hsession : r.session = none
    · rw [hsession]
      exact .inl hentry
    · exact .inr (Ne.symm hsession)

/-- After the loss and the Sequencer's part, the port's link is as step 1 left it. -/
theorem settle_loseSession_lost {s : State} {p : Port} {keep : Option Tag} (c : LossCause)
    (hkeep : ∀ u, keep = some u → (s.link p).entry u ≠ .taken none) :
    LinkLost s (settle (loseSession s p c keep)) p keep ∧ Shut (settle (loseSession s p c keep)) p := by
  have hclosed := closeLost_lost s p keep
  have hshut := hclosed.shut hkeep
  have hkeeps := (loseSession_closed (closed_keepsShut (p := p)) s p c keep).trans (seqClosed_keepsShut.settle _)
  exact ⟨hclosed.of_same (hkeeps.2 hshut), hkeeps.shut hshut⟩

theorem loseEvent_lost (s : State) (p : Port) (c : LossCause) : LinkLost s (loseEvent s p c) p none := by
  obtain ⟨hlost, hshut⟩ := settle_loseSession_lost (keep := none) c (s := s) (p := p) nofun
  exact hlost.of_same (restartIf_sameLink hshut.replies _)

theorem LinkLost.sessionLost {s t : State} {p : Port} (h : LinkLost s t p none) : SessionLost s t p where
  session := h.session
  tags u := by rw [h.link]; exact entry_lose_none _ u
  cache u := by rw [h.link]; exact cached_lose _ none u
  credit := by rw [h.link]; rfl
  responses r hr := by
    rw [h.link] at hr
    simpa using List.of_mem_filter hr
  queue := by rw [h.notices]; rfl
  lost := by rw [h.notices]; rfl

/-- What is said of a loss at one moment is said of it from a moment before with the same session. -/
theorem SessionLost.before {s u t : State} {p : Port} (h : SessionLost u t p)
    (hnumber : (u.session p).number = (s.session p).number) : SessionLost s t p :=
  { h with session := h.session.trans (by rw [hnumber]) }

/-! ### A head with its burst issued -/

theorem offers_of_issued {e : Entry} (h : e.issued = true) : e.offers = false := by simp [Entry.offers, h]

theorem dropFrom_fifo_ne {p q : Port} (hq : q ≠ p) : ∀ (l : List Entry) (s : State), (dropFrom p l s).fifo q = s.fifo q
  | [], _ => rfl
  | e :: l, s => by
    rw [dropFrom]
    split
    · rw [dropFrom_fifo_ne hq l, endEntry_fifo, fifo_setFifo_ne _ _ _ hq]
    · rfl

section
variable {p : Port} {e : Entry} {rest : List Entry} {s : State}

theorem dropBreaches_fifo_issued (hfifo : s.fifo p = e :: rest) (he : e.issued = true) :
    (dropBreaches s).fifo p = e :: rest := by
  have hfold : ∀ (qs : List Port) (t : State), t.fifo p = e :: rest →
      (qs.foldl (fun t q => dropFrom q (t.fifo q) t) t).fifo p = e :: rest := by
    intro qs
    induction qs with
    | nil => exact fun t ht => ht
    | cons q qs ih =>
      intro t ht
      refine ih _ ?_
      by_cases hq : p = q
      · subst hq
        have hstays : dropFrom p (t.fifo p) t = t := by rw [ht]; exact if_neg (by simp [offers_of_issued he])
        exact (congrArg (State.fifo · p) hstays).trans ht
      · exact (dropFrom_fifo_ne hq _ t).trans ht
  exact hfold allPorts s hfifo

theorem grant_fifo_ne {q : Port} (s : State) (hq : p ≠ q) : (grant s q).fifo p = s.fifo p := by
  unfold grant
  split
  · rfl
  · exact fifo_setFifo_ne s _ _ hq

theorem chooseAmong_fifo_issued (hfifo : s.fifo p = e :: rest) (he : e.issued = true) :
    (chooseAmong s).fifo p = e :: rest := by
  have hnot : eligible s p = false := by simp [eligible, hfifo, offers_of_issued he]
  unfold chooseAmong
  split
  · exact hfifo
  · split
    · exact hfifo
    · split
      · next q hq =>
        refine (grant_fifo_ne s fun heq => ?_).trans hfifo
        have helig := List.find?_some hq
        rw [← heq, hnot] at helig
        cases helig
      · split <;> exact hfifo

theorem arbiter_fifo_issued (hfifo : s.fifo p = e :: rest) (he : e.issued = true) : (arbiter s).fifo p = e :: rest := by
  unfold arbiter
  split
  · exact chooseAmong_fifo_issued (dropBreaches_fifo_issued hfifo he) he
  · exact hfifo

theorem settle_fifo_issued (hfifo : s.fifo p = e :: rest) (he : e.issued = true) : (settle s).fifo p = e :: rest :=
  (fifo_congr ((idleClosed_ports.wakeForHeads _).trans (idleClosed_ports.updateIdle _)) p).trans
    (arbiter_fifo_issued hfifo he)

theorem reach_fifo_issued (d : Nat) (hfifo : s.fifo p = e :: rest) (he : e.issued = true) :
    (s.reach d).fifo p = e :: rest := by
  unfold State.reach startDue
  split
  · split
    · exact arbiter_fifo_issued hfifo he
    · exact hfifo
  · exact hfifo

/-- A stop order on an issued head that `sel` picks stands in its record (R110). -/
theorem stopStarted_fifo_issued {sel : Entry → Bool} (o : StopOrder) (hfifo : s.fifo p = e :: rest)
    (he : e.issued = true) (hsel : sel e = true) : (stopStarted s p o sel).fifo p = e.withStop o :: rest := by
  have hstarted : e.started = true := by simp [Entry.started, he]
  unfold stopStarted
  rw [hfifo]
  dsimp only
  rw [if_pos (by simp [hstarted, hsel]), if_neg (by simp [he]), fifo_setFifo_self]

/-- A started head stays through every cancellation (R107). -/
theorem cancelWaiting_fifo_started (pl : Option (List Byte)) (sel : Entry → Bool) (hfifo : s.fifo p = e :: rest)
    (he : e.started = true) : ∃ rest', (cancelWaiting s p pl sel).fifo p = e :: rest' := by
  rw [cancelWaiting_fifo, hfifo, List.filter_cons_of_pos (by simp [he])]
  exact ⟨_, rfl⟩

theorem silenceAll_fifo_issued (hfifo : ∃ rest, s.fifo p = e :: rest) (he : e.issued = true)
    (hstop : e.stop = some .silent) : ∃ rest, (silenceAll s).fifo p = e :: rest := by
  have hsilent : e.withStop .silent = e := by
    have : e.withStop .silent = { e with stop := some .silent } := rfl
    rw [this, ← hstop]
  have hfold : ∀ (qs : List Port) (t : State), (∃ rest, t.fifo p = e :: rest) →
      ∃ rest, (qs.foldl silenceEntries t).fifo p = e :: rest := by
    intro qs
    induction qs with
    | nil => exact fun t ht => ht
    | cons q qs ih =>
      intro t ⟨rest, ht⟩
      refine ih _ ?_
      unfold silenceEntries
      have hslot : (t.setSlot q none).fifo p = e :: rest := (fifo_setSlot t q none p).trans ht
      by_cases hq : p = q
      · subst hq
        have hstopped := stopStarted_fifo_issued (sel := fun _ => true) .silent hslot he rfl
        rw [hsilent] at hstopped
        exact cancelWaiting_fifo_started none _ hstopped (by simp [Entry.started, he])
      · rw [cancelWaiting_fifo_ne _ _ _ hq, stopStarted_fifo_ne _ _ _ hq]
        exact ⟨rest, hslot⟩
  exact hfold allPorts s hfifo

theorem beginRestart_fifo_issued (c : ResetCause) (hfifo : s.fifo p = e :: rest) (he : e.issued = true)
    (hstop : e.stop = some .silent) : ∃ rest, (beginRestart s c).fifo p = e :: rest := by
  have hentry : (beginRetention { s with restart := .begun c } .restart).fifo p = e :: rest :=
    (beginRetention_fifo _ _ p).trans hfifo
  obtain ⟨rest', hsilenced⟩ := silenceAll_fifo_issued
    (s := (beginRetention { s with restart := .begun c } .restart).setSeq
      { (beginRetention { s with restart := .begun c } .restart).seq with reinit := none }) ⟨rest, hentry⟩ he hstop
  exact ⟨rest', settle_fifo_issued hsilenced he⟩

end

end Sys2Proof.Machine
end

section
/-! PROOFS. What the loss of a session leaves of its transactions, claims, offers and leases (R33 steps 2 and 3), and
the loss as an event of its own. -/

namespace Sys2Proof.Machine

/-! ### The transactions (R114) -/

theorem loseEntries_keeps (s : State) (p : Port) (n : SessNo) : KeepsRest (s.setSlot p none) (loseEntries s p n) :=
  (seqClosed_keepsRest.stopStarted _ _ _ _).trans (seqClosed_keepsRest.cancelFrom _ _ _ _ _ _)

/-- The session's transactions with the Engine's orders: what has not started is gone, and what has is silenced. -/
structure EntriesLost (s t : State) (p : Port) (n : SessNo) : Prop where
  params : t.params = s.params
  regions : ∀ i, t.region i = s.region i
  now : t.now = s.now
  slot : t.slot p = none
  started : ∀ e ∈ t.fifo p, e.session = n → e.started = true
  empty : s.fifo p = [] → t.fifo p = []
  head : ∀ e rest, s.fifo p = e :: rest → e.session = n → e.issued = true →
    ∃ rest', t.fifo p = { e with stop := some .silent } :: rest'

theorem loseEntries_lost (s : State) (p : Port) (n : SessNo) : EntriesLost s (loseEntries s p n) p n where
  params := (congrArg State.params (loseEntries_keeps s p n).rest :)
  regions := region_congr (congrArg State.regions (loseEntries_keeps s p n).rest :)
  now := (closed_setting.loseEntries s p n).2.1
  slot := ((loseEntries_keeps s p n).slot p).trans (slot_setSlot_self s p none)
  started e he hsession := by
    unfold loseEntries at he
    rw [cancelWaiting_fifo] at he
    simpa [hsession] using List.of_mem_filter he
  empty hfifo := by
    have hslot : (s.setSlot p none).fifo p = [] := (fifo_setSlot s p none p).trans hfifo
    have hnone : ∀ e ∈ (s.setSlot p none).fifo p, decide (e.session = n) = false := by rw [hslot]; exact nofun
    unfold loseEntries
    dsimp only
    rw [stopStarted_none _ hnone, cancelWaiting_none _ hnone, hslot]
  head e rest hfifo hsession he :=
    cancelWaiting_fifo_started none _
      (stopStarted_fifo_issued .silent ((fifo_setSlot s p none p).trans hfifo) he (by simp [hsession]))
      (by simp [Entry.started, he])

/-! ### The regions (R87 to R91) -/

theorem closeLost_parts (s : State) (p : Port) (keep : Option Tag) :
    (closeLost s p keep).fifo p = s.fifo p ∧ (closeLost s p keep).slot p = s.slot p := by
  constructor <;> simp only [closeLost, State.fifo, State.slot, port_setPort_self]

theorem tableClosed_engine (p : Port) : TableClosed fun s t => t.slot p = s.slot p ∧ t.fifo p = s.fifo p where
  refl _ := ⟨rfl, rfl⟩
  trans h g := ⟨g.1.trans h.1, g.2.trans h.2⟩
  post s q n := ⟨post_slot s q n p, post_fifo s q n p⟩
  region _ _ _ := ⟨rfl, rfl⟩

section
variable (s : State) (p : Port) (n : SessNo)

theorem loseLeases_region (i : RegionId) : ∃ u, (loseLeases s p n).region i = (loseRegion p n u i).region i ∧
    u.region i = s.region i ∧ OffRegions s u ∧ ∀ q, u.fifo q = s.fifo q :=
  foldl_allRegions (loseRegion_onRegion (p := p) (n := n)) i s

theorem loseLeases_now : (loseLeases s p n).now = s.now := (closed_setting.loseLeases s p n).2.1

theorem loseLeases_fifo (q : Port) : (loseLeases s p n).fifo q = s.fifo q :=
  ((tableClosed_engine q).loseLeases s p n).2

end

/-- The loss itself, before its notice is posted (R33, steps 1 to 3). -/
theorem loseLeases_leaves (s : State) (p : Port) (keep : Option Tag) :
    LossLeaves s (loseLeases (loseEntries (closeLost s p keep) p (s.session p).number) p (s.session p).number) p := by
  have hentries := loseEntries_lost (closeLost s p keep) p (s.session p).number
  obtain ⟨hfifo, -⟩ := closeLost_parts s p keep
  generalize loseEntries (closeLost s p keep) p (s.session p).number = t at hentries
  set n := (s.session p).number
  have hregions : ∀ i, t.region i = s.region i := hentries.regions
  have hstep : ∀ i, ∃ u, (loseLeases t p n).region i = (loseRegion p n u i).region i ∧ u.region i = s.region i ∧
      OffRegions t u ∧ ∀ q, u.fifo q = t.fifo q := fun i => by
    obtain ⟨u, hfold, hu, hoff, hsame⟩ := loseLeases_region t p n i
    exact ⟨u, hfold, hu.trans (hregions i), hoff, hsame⟩
  have hempty : s.fifo p = [] → t.fifo p = [] := fun h => hentries.empty (hfifo.trans h)
  refine ⟨((tableClosed_engine p).loseLeases t p n).1.trans hentries.slot, fun e he => ?_, fun i r hr => ?_, fun i hr => ?_,
    fun i r h r' hr hr' hh ho his hmode hnone => ?_, fun i r h hr hh ho hq his hmode => ?_,
    fun i r h e rest hr hh his hmode hhead hsession hregion hissued => ?_⟩
  · rw [loseLeases_fifo] at he
    exact hentries.started e he
  · obtain ⟨u, hfold, hu, -, -⟩ := hstep i
    rw [hfold]
    exact loseRegion_record (hu.trans hr)
  · obtain ⟨u, hfold, hu, -, -⟩ := hstep i
    rw [hfold, loseRegion_none (hu.trans hr)]
    exact hu.trans hr
  · obtain ⟨u, hfold, hu, hoff, hsame⟩ := hstep i
    obtain ⟨x, hx, hresolved⟩ := loseRegion_resolves (hu.trans hr) hh ho his hmode ((hsame p).trans (hempty hnone))
    rw [hfold, hx] at hr'
    obtain rfl := Option.some.inj hr'
    have hparams : u.params = s.params := hoff.params.trans hentries.params
    rwa [hparams, hoff.now, ← loseLeases_now t p n] at hresolved
  · obtain ⟨u, hfold, hu, -, -⟩ := hstep i
    rw [hfold]
    exact loseRegion_frees (hu.trans hr) hh ho hq his hmode
  · obtain ⟨rest', hsilenced⟩ := hentries.head e rest (hfifo.trans hhead) hsession hissued
    obtain ⟨u, hfold, hu, -, hsame⟩ := hstep i
    have hmem : { e with stop := some .silent } ∈ u.fifo p := by rw [hsame, hsilenced]; exact List.mem_cons_self
    refine ⟨?_, rest', (loseLeases_fifo t p n p).trans hsilenced⟩
    rw [hfold]
    exact loseRegion_waits (hu.trans hr) hh his hmode hmem hregion

/-! ### The rest of the event -/

/-- What follows a loss in its event: the regions and the moment stand, no request is held, no transaction is begun
anew, and a silenced head with its burst issued stays. -/
structure StaysLost (p : Port) (s t : State) : Prop where
  regions : ∀ i, t.region i = s.region i
  now : t.now = s.now
  slot : s.slot p = none → t.slot p = none
  fifo : ∀ x ∈ t.fifo p, x.started = true ∨ ∃ e ∈ s.fifo p, Continues e x
  head : ∀ e rest, s.fifo p = e :: rest → e.issued = true → e.stop = some .silent → ∃ rest', t.fifo p = e :: rest'

section
variable {p : Port} {s t u : State}

theorem StaysLost.trans (h : StaysLost p s t) (g : StaysLost p t u) : StaysLost p s u where
  regions i := (g.regions i).trans (h.regions i)
  now := g.now.trans h.now
  slot hs := g.slot (h.slot hs)
  fifo x hx := by
    obtain hstarted | ⟨y, hy, hyx⟩ := g.fifo x hx
    · exact .inl hstarted
    · obtain hstarted | ⟨e, he, hey⟩ := h.fifo y hy
      · exact .inl (hyx.started hstarted)
      · exact .inr ⟨e, he, hey.trans hyx⟩
  head e rest hs he hstop := by
    obtain ⟨rest', ht⟩ := h.head e rest hs he hstop
    exact g.head e rest' ht he hstop

/-- A step that leaves the regions, the moment, the slot and the FIFO. -/
theorem StaysLost.of_same (hregions : ∀ i, t.region i = s.region i) (hnow : t.now = s.now) (hslot : t.slot p = s.slot p)
    (hfifo : t.fifo p = s.fifo p) : StaysLost p s t where
  regions := hregions
  now := hnow
  slot hs := hslot.trans hs
  fifo x hx := .inr ⟨x, hfifo ▸ hx, .refl x⟩
  head _ rest hs _ _ := ⟨rest, hfifo.trans hs⟩

theorem StaysLost.refl (s : State) : StaysLost p s s := .of_same (fun _ => rfl) rfl rfl rfl

theorem StaysLost.post (s : State) (q : Port) (n : Notice) : StaysLost p s (Machine.post s q n) :=
  .of_same (post_offPorts s q n).region (post_offPorts s q n).now (post_slot s q n p) (post_fifo s q n p)

theorem StaysLost.handReply (s : State) (r : ReplyTo) (a b : Bool) (pl : List Byte) :
    StaysLost p s (Machine.handReply s r a b pl) :=
  .of_same (handReply_offPorts s r a b pl).region (handReply_offPorts s r a b pl).now (handReply_slot s r a b pl p)
    (handReply_fifo s r a b pl p)

theorem StaysLost.settle (s : State) : StaysLost p s (Machine.settle s) where
  regions := settle_region s
  now := settle_now s
  slot hs := ((settle_onlyWork s).slot p).trans hs
  fifo x hx := .inr (settle_descends s p x hx)
  head _ rest hs he _ := ⟨rest, settle_fifo_issued hs he⟩

theorem beginRestart_now (s : State) (c : ResetCause) : (beginRestart s c).now = s.now := by
  unfold beginRestart
  dsimp only
  rw [settle_now, (closed_setting.silenceAll _).2.1]
  exact beginRetention_now _ _

theorem StaysLost.beginRestart (s : State) (c : ResetCause) : StaysLost p s (Machine.beginRestart s c) where
  regions := region_congr (beginRestart_leaves s c).1.regions
  now := beginRestart_now s c
  slot _ := ((beginRestart_leaves s c).2 p).1
  fifo x hx := .inl (((beginRestart_leaves s c).2 p).2 x hx)
  head _ _ hs he hstop := beginRestart_fifo_issued c hs he hstop

theorem StaysLost.restartIf (s : State) (due : Bool) : StaysLost p s (Machine.restartIf s due) := by
  unfold Machine.restartIf
  split
  · exact .beginRestart s .command
  · exact .refl s

theorem LossLeaves.after (h : LossLeaves s t p) (g : StaysLost p t u) : LossLeaves s u p where
  slot := g.slot h.slot
  fifo x hx hsession := by
    obtain hstarted | ⟨e, he, hex⟩ := g.fifo x hx
    · exact hstarted
    · exact hex.started (h.fifo e he (hex.session.symm.trans hsession))
  regions i r hr := by
    rw [g.regions]
    exact h.regions i r hr
  undefinedSlots i hr := (g.regions i).trans (h.undefinedSlots i hr)
  resolved i r x r' hr hr' hh ho his hmode hnone := by
    rw [g.now]
    exact h.resolved i r x r' hr ((g.regions i).symm.trans hr') hh ho his hmode hnone
  sharedFree i r x hr hh ho hq his hmode := (g.regions i).trans (h.sharedFree i r x hr hh ho hq his hmode)
  waitsForBurst i r x e rest hr hh his hmode hhead hsession hregion hissued := by
    obtain ⟨hrecord, rest', hfifo⟩ := h.waitsForBurst i r x e rest hr hh his hmode hhead hsession hregion hissued
    refine ⟨?_, g.head _ rest' hfifo hissued rfl⟩
    rw [g.regions]
    exact hrecord

/-! ### What comes before the loss -/

/-- What the event has done before the loss begins: the session's number, the regions, the accept window, an empty FIFO
and a head with its burst issued stand. -/
structure ReadyToLose (p : Port) (s t : State) : Prop where
  number : (t.session p).number = (s.session p).number
  regions : ∀ i, t.region i = s.region i
  params : t.params = s.params
  empty : s.fifo p = [] → t.fifo p = []
  head : ∀ e rest, s.fifo p = e :: rest → e.issued = true → ∃ rest', t.fifo p = e :: rest'

theorem ReadyToLose.trans (h : ReadyToLose p s t) (g : ReadyToLose p t u) : ReadyToLose p s u where
  number := g.number.trans h.number
  regions i := (g.regions i).trans (h.regions i)
  params := g.params.trans h.params
  empty hs := g.empty (h.empty hs)
  head e rest hs he := by
    obtain ⟨rest', ht⟩ := h.head e rest hs he
    exact g.head e rest' ht he

theorem ReadyToLose.of_offPorts (hoff : OffPorts s t) (hnumber : (t.session p).number = (s.session p).number)
    (hfifo : t.fifo p = s.fifo p) : ReadyToLose p s t where
  number := hnumber
  regions := hoff.region
  params := hoff.params
  empty hs := hfifo.trans hs
  head _ rest hs _ := ⟨rest, hfifo.trans hs⟩

theorem ReadyToLose.reach (s : State) (d : Nat) : ReadyToLose p s (s.reach d) where
  number := congrArg Session.number (reach_session s d p)
  regions := reach_region s d
  params := reach_params s d
  empty hs := List.eq_nil_iff_forall_not_mem.mpr fun x hx => by
    obtain ⟨e, he, -⟩ := reach_descends s d p x hx
    rw [hs] at he
    cases he
  head _ rest hs he := ⟨rest, reach_fifo_issued d hs he⟩

theorem ReadyToLose.afterTake (s : State) (q : Port) (tb : Byte) : ReadyToLose p s (Machine.afterTake s q tb) :=
  .of_offPorts (afterTake_offPorts s q tb) (afterTake_session_number s q tb p) (afterTake_fifo s q tb p)

theorem LossLeaves.before (h : LossLeaves t u p) (g : ReadyToLose p s t) : LossLeaves s u p where
  slot := h.slot
  fifo := by
    rw [← g.number]
    exact h.fifo
  regions i r hr := by
    rw [← g.number]
    exact h.regions i r ((g.regions i).trans hr)
  undefinedSlots i hr := h.undefinedSlots i ((g.regions i).trans hr)
  resolved i r x r' hr hr' hh ho his hmode hnone := by
    rw [← g.number] at his ⊢
    rw [← g.params]
    exact h.resolved i r x r' ((g.regions i).trans hr) hr' hh ho his hmode (g.empty hnone)
  sharedFree i r x hr hh ho hq his hmode := by
    rw [← g.number] at his
    exact h.sharedFree i r x ((g.regions i).trans hr) hh ho hq his hmode
  waitsForBurst i r x e rest hr hh his hmode hhead hsession hregion hissued := by
    rw [← g.number] at his hsession
    obtain ⟨rest', hhead'⟩ := g.head e rest hhead hissued
    exact h.waitsForBurst i r x e rest' ((g.regions i).trans hr) hh his hmode hhead' hsession hregion hissued

end

/-! ### The loss and its event -/

theorem loseSession_leaves (s : State) (p : Port) (c : LossCause) (keep : Option Tag) :
    LossLeaves s (loseSession s p c keep) p := by
  have hlost := loseLeases_leaves s p keep
  unfold loseSession
  dsimp only
  split
  · exact hlost
  · exact hlost.after (.post _ _ _)

/-- The loss as an event of its own (R33). -/
theorem loseEvent_leaves (s : State) (p : Port) (c : LossCause) : LossLeaves s (loseEvent s p c) p :=
  (loseSession_leaves s p c none).after ((StaysLost.settle _).trans (.restartIf _ _))

theorem loseSession_now (s : State) (p : Port) (c : LossCause) (keep : Option Tag) :
    (loseSession s p c keep).now = s.now := (loseSession_closed closed_setting s p c keep).2.1

theorem loseEvent_now (s : State) (p : Port) (c : LossCause) : (loseEvent s p c).now = s.now := by
  have hrest : StaysLost p (loseSession s p c none) (loseEvent s p c) := (StaysLost.settle _).trans (.restartIf _ _)
  exact hrest.now.trans (loseSession_now s p c none)

/-- A loss keeps the replies of every other port. -/
theorem loseEvent_replied {s : State} {p : Port} (c : LossCause) {r : ReplyTo} {pl : List Byte} (hr : r.port ≠ p)
    (h : Replied s r pl) : Replied (loseEvent s p c) r pl := by
  have hlink : (closeLost s p none).link r.port = s.link r.port := congrArg PortState.link (port_setPort_ne s _ hr)
  have hclosed : Replied (closeLost s p none) r pl :=
    ⟨by rw [hlink]; exact h.freed, by rw [hlink]; exact h.cached, by rw [outgoing, hlink]; exact h.sent⟩
  have hlost := loseSession_closed closed_keepsReplies s p c none r pl hclosed
  exact restartIf_closed closed_keepsReplies seqClosed_keepsReplies (fun _ _ => .of_link fun _ => rfl) _ _ r pl
    (settle_keepsReplies _ r pl hlost)

end Sys2Proof.Machine
end

section
/-! PROOFS. SILENCE_TIMEOUT and EVICT_PORT (R31, R32): the loss of a session as an event of its own. -/

namespace Sys2Proof.Machine

theorem ReadyToLose.handReply {p : Port} (s : State) (r : ReplyTo) (a b : Bool) (pl : List Byte) :
    ReadyToLose p s (Machine.handReply s r a b pl) :=
  .of_offPorts (handReply_offPorts s r a b pl) (congrArg Session.number (handReply_session s r a b pl p))
    (handReply_fifo s r a b pl p)

/-- A loss after what leaves the session, its transactions and the regions ready for it. -/
theorem loseEvent_from {s u : State} {p : Port} (c : LossCause) (h : ReadyToLose p s u) :
    SessionLost s (loseEvent u p c) p ∧ LossLeaves s (loseEvent u p c) p :=
  ⟨(loseEvent_lost u p c).sessionLost.before h.number, (loseEvent_leaves u p c).before h⟩

theorem exec_silenceTimeout {s : State} {p : Port} {x : Timer} (hrun : s.isRunning = true)
    (hx : (s.session p).silence = some x) :
    exec (.silenceTimeout p) s = .next (loseEvent (s.reach x.deadline) p .silence) := by
  have hexec : exec (.silenceTimeout p) s = execSilenceTimeout p s := rfl
  rw [hexec, execSilenceTimeout, hx]
  exact if_pos hrun

/-! ### EVICT_PORT -/

theorem portOfIndex_index (v : Port) : portOfIndex (Port.index v) = some v := by cases v <;> rfl

theorem portOfIndex_outOfRange {n : Nat} (h : 4 ≤ n) : portOfIndex n = none := by
  obtain ⟨m, rfl⟩ := Nat.exists_eq_add_of_le' h
  rfl

section
variable {s : State} {q : Request} {b : Byte}

theorem serveEvict_outOfRange (h : 4 ≤ b.toNat) : serveEvict s q b = answer s q.replyTo .badParam := by
  rw [serveEvict, portOfIndex_outOfRange h]

variable {v : Port} (hb : b.toNat = Port.index v)
include hb

theorem serveEvict_supervisor (h : v = s.supervisor) : serveEvict s q b = answer s q.replyTo .badParam := by
  rw [serveEvict, hb, portOfIndex_index]
  exact if_pos h

theorem serveEvict_port (h : v ≠ s.supervisor) : serveEvict s q b =
    if ((answer s q.replyTo .ok).session v).live then loseEvent (answer s q.replyTo .ok) v .evicted
    else answer s q.replyTo .ok := by
  rw [serveEvict, hb, portOfIndex_index]
  exact if_neg h

end

/-- Settles O26: both commands come to the loss event, the eviction after its OK, which goes to another port. -/
theorem silenceAndEvictionLoseTheSession : Obligations.SilenceAndEvictionLoseTheSession := by
  refine ⟨fun p x s hrun hx => ?_, fun p tb b s h => ?_⟩
  · obtain ⟨hlost, hleaves⟩ := loseEvent_from (p := p) .silence (ReadyToLose.reach s x.deadline)
    exact ⟨_, exec_silenceTimeout hrun hx, hlost, hleaves, (loseEvent_now _ p .silence).trans (reach_now s _)⟩
  · have hexec := exec_reaches (act := serveEvict) h rfl (rfl : readOne [b] = some b)
    have hsup : p = s.supervisor := h.2.1.2 rfl
    have hkept : ∀ v, ((answer (afterTake s p tb) (replyFor s p .evictPort tb) .ok).session v).live
        = (s.session v).live := fun v =>
      (congrArg Session.live (handReply_session _ _ _ _ _ v)).trans (afterTake_live s p tb v)
    refine ⟨fun hout => ?_, fun v hb => ⟨fun hv => ?_, fun hv hstate => ?_, fun hv hlive => ?_⟩⟩
    · exact answersStatus_of_answer _ s p .evictPort tb _
        (hexec.trans (congrArg Host.Outcome.next (serveEvict_outOfRange hout)))
    · exact answersStatus_of_answer _ s p .evictPort tb _
        (hexec.trans (congrArg Host.Outcome.next (serveEvict_supervisor hb (hv.trans (afterTake_sup s p tb).symm))))
    · rw [serveEvict_port hb (by rwa [afterTake_sup])] at hexec
      rw [if_neg (by rw [hkept, Session.live, hstate]; exact Bool.false_ne_true)] at hexec
      exact answersStatus_of_answer _ s p .evictPort tb .ok hexec
    · rw [serveEvict_port hb (by rwa [afterTake_sup])] at hexec
      rw [if_pos ((hkept v).trans hlive)] at hexec
      obtain ⟨hlost, hleaves⟩ := loseEvent_from (p := v) .evicted ((ReadyToLose.afterTake s p tb).trans
        (.handReply _ (replyFor s p .evictPort tb) false false [Status.ok.code]))
      have hreplied := (answered_handReply (afterTake s p tb) (replyFor s p .evictPort tb) false false [Status.ok.code]
        (accepts_taken s p .evictPort tb)).replied
      exact ⟨_, hexec, hlost, hleaves, loseEvent_replied .evicted (fun hp => hv (hp.symm.trans hsup)) hreplied⟩

end Sys2Proof.Machine
end

section
/-! PROOFS. BAD_FRAME and GAP_TIMEOUT (R7, R8, R9): the count of bad frames in a row, its NAK, and the loss at eight. -/

namespace Sys2Proof.Machine

/-! ### A response on its way out -/

/-- A response of this class with this frame is on its way out: in transmission, or in the response list. -/
def OnItsWay (l : Link) (c : RespClass) (f : Frame) : Prop :=
  (∃ x, l.tx = some x ∧ x.frame = f) ∨ ∃ r ∈ l.responses, r.cls = c ∧ r.frame = f

theorem arbitrate_onItsWay {s : State} {p : Port} {c : RespClass} {f : Frame} (h : OnItsWay (s.link p) c f) :
    OnItsWay ((arbitrate s p).link p) c f := by
  unfold arbitrate
  split
  · split
    · exact h
    · next htx =>
      obtain ⟨x, hx, -⟩ | ⟨r, hr, hcls, hframe⟩ := h
      · rw [htx] at hx
        cases hx
      · cases hl : (s.link p).responses with
        | nil =>
          rw [hl] at hr
          cases hr
        | cons y rest =>
          dsimp only
          rw [link_setLink_self]
          rw [hl] at hr
          obtain rfl | hrest := List.mem_cons.mp hr
          · exact .inl ⟨_, rfl, hframe⟩
          · exact .inr ⟨r, hrest, hcls, hframe⟩
  · exact h

theorem handRefusal_onItsWay {s : State} {p : Port} (c : RespClass) (f : Frame) (h : refusalsWaiting (s.link p) < 16) :
    OnItsWay ((handRefusal s p c f).link p) c f := by
  unfold handRefusal
  rw [if_pos h]
  refine arbitrate_onItsWay (.inr ⟨⟨c, f, false⟩, ?_, rfl, rfl⟩)
  rw [link_setLink_self]
  exact List.mem_append_right _ List.mem_cons_self

/-- A NAK on its way out survives a loss (R16). -/
theorem LinkLost.nak {s t : State} {p : Port} {f : Frame} (h : LinkLost s t p none) (hnak : OnItsWay (s.link p) .nak f) :
    f ∈ outgoing t p := by
  rw [outgoing, h.link]
  obtain ⟨x, hx, hframe⟩ | ⟨r, hr, hcls, hframe⟩ := hnak
  · refine List.mem_append_left _ ?_
    have htx : ((s.link p).lose none).tx = some x := hx
    simp [htx, hframe]
  · refine List.mem_append_right _ (List.mem_map.mpr ⟨r, ?_, hframe⟩)
    exact List.mem_filter.mpr ⟨hr, decide_eq_true hcls⟩

/-! ### The count (R8, R9) -/

/-- What is said of a refusal is said with the bad-frame count written anew on both sides. -/
theorem Refused.recounted {s t : State} {p : Port} {f : Frame} (h : Refused s t p f) (n : Nat) :
    Refused (s.setLink p { s.link p with badFrames := n }) (t.setLink p { t.link p with badFrames := n }) p f where
  rest := (congrArg (fun x : State => { x with ports := (s.setLink p { s.link p with badFrames := n }).ports }) h.rest :)
  others q hq := (port_setPort_ne t _ hq).trans ((h.others q hq).trans (port_setPort_ne s _ hq).symm)
  port := by
    obtain ⟨hsession, hnotices, hfifo, hslot⟩ := h.port
    simp [OffLink, hsession, hnotices, hfifo, hslot]
  link := by
    have hlink := congrArg (fun l : Link => { l with badFrames := n }) h.link
    simpa using hlink
  sent := by
    have hsent := h.sent
    simpa [outgoing, refusalsWaiting] using hsent

section
variable {s : State} {p : Port} {l : Link} (c : NakCause) (hl : s.link p = l)
include hl

theorem badFrame_counted (h : l.badFrames < 7) :
    Refused (s.setLink p { l with badFrames := l.badFrames + 1 }) (badFrame s p c) p
      (nakFrame (l.badFrames + 1) c) := by
  subst hl
  have hcount : (s.link p).badFrames + 1 < 8 := by omega
  unfold badFrame
  dsimp only
  rw [if_pos hcount]
  exact refused_handRefusal _ p .nak _

/-- The eighth bad frame's NAK, with the count back at 0. -/
def eighthBad (s : State) (p : Port) (c : NakCause) : State :=
  let t := handRefusal (s.setLink p { s.link p with badFrames := 8 }) p .nak (nakFrame 8 c)
  t.setLink p { t.link p with badFrames := 0 }

omit hl in
theorem eighthBad_refused : Refused (s.setLink p { s.link p with badFrames := 0 }) (eighthBad s p c) p (nakFrame 8 c) := by
  have hrefused := (refused_handRefusal (s.setLink p { s.link p with badFrames := 8 }) p .nak (nakFrame 8 c)).recounted 0
  rwa [link_setLink_self, setLink_setLink] at hrefused

omit hl in
theorem eighthBad_session : (eighthBad s p c).session p = s.session p := by
  have hport := (eighthBad_refused (s := s) (p := p) c).port.1
  rwa [session_setLink] at hport

theorem badFrame_eighth (h : l.badFrames = 7) : badFrame s p c =
    if (s.session p).live then loseEvent (eighthBad s p c) p .linkFault else eighthBad s p c := by
  subst hl
  rw [← eighthBad_session c]
  unfold badFrame eighthBad
  dsimp only
  rw [h]
  rfl

end

/-- The eighth bad frame in a row, in a session: the session is lost, and its NAK goes out (R9, R16). -/
theorem eighthBad_loses {s u : State} {p : Port} (c : NakCause) (hready : ReadyToLose p s u)
    (hwaiting : refusalsWaiting (u.link p) = refusalsWaiting (s.link p)) :
    SessionLost s (loseEvent (eighthBad u p c) p .linkFault) p ∧ LossLeaves s (loseEvent (eighthBad u p c) p .linkFault) p ∧
      ((loseEvent (eighthBad u p c) p .linkFault).link p).badFrames = 0 ∧
      (refusalsWaiting (s.link p) < 16 → nakFrame 8 c ∈ outgoing (loseEvent (eighthBad u p c) p .linkFault) p) := by
  have hrefused := eighthBad_refused (s := u) (p := p) c
  have heighth : ReadyToLose p u (eighthBad u p c) := .of_offPorts
    ((setLink_offPorts u p _).trans hrefused.rest)
    (congrArg Session.number (eighthBad_session c)) (hrefused.port.2.2.1.trans (fifo_setLink u p _ p))
  obtain ⟨hlost, hleaves⟩ := loseEvent_from .linkFault (hready.trans heighth)
  have hlink := loseEvent_lost (eighthBad u p c) p .linkFault
  refine ⟨hlost, hleaves, ?_, fun hroom => hlink.nak ?_⟩
  · rw [hlink.link]
    exact congrArg Link.badFrames (link_setLink_self _ p _)
  · have hway := handRefusal_onItsWay (s := u.setLink p { u.link p with badFrames := 8 }) (p := p) .nak (nakFrame 8 c) (by
      rw [link_setLink_self]
      exact hwaiting.trans_lt hroom)
    unfold eighthBad
    rw [link_setLink_self]
    exact hway

/-! ### The commands -/

theorem exec_badFrame {s : State} {p : Port} {bytes : List Byte} {rx : Receiver} {c : NakCause}
    (hrun : s.isRunning = true) (hhear : (s.link p).rx.hear s.now bytes = (rx, [.bad c])) :
    exec (.badFrame p bytes) s = .next (badFrame (s.setLink p { s.link p with rx := rx }) p c) := by
  have hexec : exec (.badFrame p bytes) s = execBadFrame p bytes s := rfl
  have hbytes : hearBytes s p bytes = (s.setLink p { s.link p with rx := rx }, [.bad c]) := by
    rw [hearBytes, hhear]
  have hset : (s.setLink p { s.link p with rx := rx }).isRunning = true := hrun
  rw [hexec, execBadFrame, hbytes]
  simp [hrun, hset, RxEvent.fits, hearFrames]

theorem exec_gapTimeout {s : State} {p : Port} {bytes : List Byte} {rx : Receiver} {x : Timer}
    (hrun : s.isRunning = true) (hhear : (s.link p).rx.hear s.now bytes = (rx, [])) (hmode : rx.mode ≠ .hunt)
    (hgap : rx.gap = some x) {t : State} (ht : t = (s.setLink p { s.link p with rx := rx }).reach x.deadline) :
    exec (.gapTimeout p bytes) s = .next (badFrame (t.setLink p { s.link p with rx := Receiver.idle }) p .gap) := by
  have hexec : exec (.gapTimeout p bytes) s = execGapTimeout p bytes s := rfl
  have hbytes : hearBytes s p bytes = (s.setLink p { s.link p with rx := rx }, []) := by
    rw [hearBytes, hhear]
  have hset : (s.setLink p { s.link p with rx := rx }).isRunning = true := hrun
  have hlink : t.link p = { s.link p with rx := rx } := by rw [ht, reach_link, link_setLink_self]
  have hreach : (s.setLink p { s.link p with rx := rx }).reachTimer ((s.setLink p { s.link p with rx := rx }).link p).rx.gap
      = t := by rw [link_setLink_self, hgap, ht]; rfl
  rw [hexec, execGapTimeout, hbytes]
  simp only [link_setLink_self, hrun, hmode, ne_eq, not_false_eq_true, decide_true, List.all_nil, Bool.and_self, if_true,
    hearFrames, andThen, expireGap, hset]
  rw [link_setLink_self] at hreach
  rw [hreach, hlink]

/-- Settles O15: either command comes to `badFrame` on the state with the receiver written back. -/
theorem badFramesAreCountedUpToEight : Obligations.BadFramesAreCountedUpToEight := by
  refine ⟨fun p bytes rx c s hrun hhear => ?_, fun p bytes rx x s hrun hhear hmode hgap => ?_⟩
  · set u := s.setLink p { s.link p with rx := rx } with hu
    have hexec := exec_badFrame hrun hhear
    rw [← hu] at hexec
    have hlink : u.link p = { s.link p with rx := rx } := link_setLink_self _ _ _
    have hlive : (u.session p).live = (s.session p).live := congrArg Session.live (session_setLink s p _ p)
    have hagain : ∀ l, u.setLink p l = s.setLink p l := setLink_setLink s p _
    refine ⟨fun hcount => ⟨_, hexec, ?_⟩, fun hseven hclosed => ⟨_, hexec, ?_⟩, fun hseven hopen => ⟨_, hexec, ?_⟩⟩
    · have hrefused := badFrame_counted c hlink hcount
      rwa [hagain] at hrefused
    · have hrefused := eighthBad_refused (s := u) (p := p) c
      rw [badFrame_eighth c hlink hseven, hlive, hclosed]
      rwa [hlink, hagain] at hrefused
    · rw [badFrame_eighth c hlink hseven, hlive, hopen]
      exact eighthBad_loses c (.of_offPorts (setLink_offPorts s p _) (congrArg Session.number (session_setLink s p _ p))
        (fifo_setLink s p _ p)) (by rw [hlink]; rfl)
  · set t := (s.setLink p { s.link p with rx := rx }).reach x.deadline with ht
    have hexec := exec_gapTimeout hrun hhear hmode hgap ht
    set u := t.setLink p { s.link p with rx := Receiver.idle } with hu
    have hlink : u.link p = { s.link p with rx := Receiver.idle } := link_setLink_self _ _ _
    have hsession : t.session p = s.session p := (reach_session _ _ p).trans (session_setLink s p _ p)
    have hlive : (u.session p).live = (s.session p).live :=
      congrArg Session.live ((session_setLink t p _ p).trans hsession)
    have hagain : ∀ l, u.setLink p l = t.setLink p l := setLink_setLink t p _
    refine ⟨fun hcount => ⟨_, hexec, ?_⟩, fun hseven hclosed => ⟨_, hexec, ?_⟩, fun hseven hopen => ⟨_, hexec, ?_⟩⟩
    · have hrefused := badFrame_counted .gap hlink hcount
      rwa [hagain] at hrefused
    · have hrefused := eighthBad_refused (s := u) (p := p) .gap
      rw [badFrame_eighth .gap hlink hseven, hlive, hclosed]
      rwa [hlink, hagain] at hrefused
    · rw [badFrame_eighth .gap hlink hseven, hlive, hopen]
      have hheard : ReadyToLose p s (s.setLink p { s.link p with rx := rx }) := .of_offPorts (setLink_offPorts s p _)
        (congrArg Session.number (session_setLink s p _ p)) (fifo_setLink s p _ p)
      have hidle : ReadyToLose p t u := .of_offPorts (setLink_offPorts t p _)
        (congrArg Session.number (session_setLink t p _ p)) (fifo_setLink t p _ p)
      exact eighthBad_loses .gap (hheard.trans ((ReadyToLose.reach _ x.deadline).trans hidle))
        (by rw [hlink]; rfl)

end Sys2Proof.Machine
end

section
/-! PROOFS. HELLO (R21 to R24): a session opens, after the loss of the one that was. -/

namespace Sys2Proof.Machine

/-! ### The session opens -/

/-- The port with a session just opened on it, before what is in flight is written. -/
def openedPort (s : State) (p : Port) (credit : Nat) (label : List Byte) : PortState :=
  { s.port p with
    session := ⟨.opened, (s.session p).number + 1, labelValue label,
      if s.params.keepaliveMs = 0 then none
      else some ⟨s.params.keepaliveMs * 1000000, s.now + s.params.keepaliveMs * 1000000⟩⟩
    link := { s.link p with cache := noReplies, credit := credit }
    notices := ⟨[], 0, 0⟩ }

/-- The fields of HELLO's reply (R24), with the DRAM state's two bytes. -/
def helloFields (s : State) (p : Port) (dram detail : Byte) : List Byte :=
  [0x00, portCode p, (s.session p).number + 1, boolCode (decide (s.supervisor = p)), portCode s.supervisor, 1,
    s.bootCause.code, s.seq.condition.code, dram, detail, s.clock.ref.code]

section
variable (s : State) (p : Port) (tag : Tag) (credit : Nat) (label : List Byte)

theorem openSession_port : (openSession s p tag credit label).port p = { openedPort s p credit label with
    link := { s.link p with
      cache := noReplies, credit := credit
      inFlight := (s.link p).withEntry tag (.taken (some ((s.session p).number + 1))) } } := port_setPort_self _ _ _

theorem openSession_payload :
    helloPayload (openSession s p tag credit label) p = helloFields s p s.seq.dram.code s.seq.dram.detail := by
  have hnumber : ((openSession s p tag credit label).session p).number = (s.session p).number + 1 :=
    congrArg (fun x : PortState => x.session.number) (openSession_port s p tag credit label)
  rw [helloPayload, hnumber]
  rfl

theorem openSession_accepts :
    acceptsReply (openSession s p tag credit label) ⟨p, tag, some ((s.session p).number + 1), .hello⟩ = true := by
  have hport := openSession_port s p tag credit label
  have hentry : ((openSession s p tag credit label).link p).entry tag = .taken (some ((s.session p).number + 1)) := by
    rw [State.link, hport]
    exact withEntry_self (s.link p) tag _
  have hpresent : (openSession s p tag credit label).presentSession p = some ((s.session p).number + 1) := by
    rw [State.presentSession, State.session, hport]
    rfl
  simp [acceptsReply, hentry, hpresent]

/-- The opening leaves the tables of the other ports, and this port's FIFO and slot (R22). -/
theorem openSession_staysLost : StaysLost p s (openSession s p tag credit label) :=
  .of_same (fun _ => rfl) rfl (congrArg PortState.slot (openSession_port s p tag credit label) :)
    (congrArg PortState.fifo (openSession_port s p tag credit label) :)

end

theorem openAndReply_eq (s : State) {q : Request} (f : HelloFields) {p : Port} {tag : Tag} {n : Option SessNo}
    (hq : q.replyTo = ⟨p, tag, n, .hello⟩) : openAndReply s q f =
      handReply (openSession s p tag f.credit f.label) ⟨p, tag, some ((s.session p).number + 1), .hello⟩ false false
        (helloFields s p s.seq.dram.code s.seq.dram.detail) := by
  have hnumber : ((openSession s p tag f.credit f.label).session p).number = (s.session p).number + 1 :=
    congrArg (fun x : PortState => x.session.number) (openSession_port s p tag f.credit f.label)
  rw [← openSession_payload s p tag f.credit f.label, ← hnumber, openAndReply, hq]
  rfl

/-- The port with its session opened and HELLO answered, where only HELLO's tag was in flight. -/
structure Opened (s t : State) (p : Port) (tag : Tag) (credit : Nat) (label : List Byte) : Prop where
  rest : OffPorts s t
  stays : StaysLost p s t
  session : t.session p = (openedPort s p credit label).session
  notices : t.notices p = ⟨[], 0, 0⟩
  credit : (t.link p).credit = credit
  tags : ∀ u, (t.link p).entry u = .free
  slots : ∀ u, u ≠ tag → (t.link p).cached u = none
  replied : Replied t ⟨p, tag, some ((s.session p).number + 1), .hello⟩
    (helloFields s p s.seq.dram.code s.seq.dram.detail)

theorem openAndReply_opens {s : State} {q : Request} (f : HelloFields) {p : Port} {tag : Tag} {n : Option SessNo}
    (hq : q.replyTo = ⟨p, tag, n, .hello⟩) (htags : ∀ u, u ≠ tag → (s.link p).entry u = .free) :
    Opened s (openAndReply s q f) p tag f.credit f.label := by
  have hport := openSession_port s p tag f.credit f.label
  have hanswered := answered_handReply _ _ false false (helloFields s p s.seq.dram.code s.seq.dram.detail)
    (openSession_accepts s p tag f.credit f.label)
  have hstays := (openSession_staysLost s p tag f.credit f.label).trans (.handReply _
    ⟨p, tag, some ((s.session p).number + 1), .hello⟩ false false (helloFields s p s.seq.dram.code s.seq.dram.detail))
  rw [openAndReply_eq s f hq]
  generalize handReply (openSession s p tag f.credit f.label) ⟨p, tag, some ((s.session p).number + 1), .hello⟩ false false
    (helloFields s p s.seq.dram.code s.seq.dram.detail) = t at hanswered hstays
  have hlink := congrArg PortState.link hport
  obtain ⟨hsession, hnotices, -, -⟩ := hanswered.port
  have hoff : OffPorts s (openSession s p tag f.credit f.label) := setPort_offPorts s p _
  refine ⟨hoff.trans hanswered.rest, hstays, hsession.trans (congrArg PortState.session hport :),
    hnotices.trans (congrArg PortState.notices hport :), hanswered.credit.trans (congrArg Link.credit hlink :), fun u => ?_,
    fun u hu => ?_, hanswered.replied⟩
  · by_cases hu : u = tag
    · rw [hu]
      exact hanswered.freed
    · refine (hanswered.otherTags u hu).trans ?_
      rw [State.link, hlink]
      exact (withEntry_ne (s.link p) _ hu).trans (htags u hu)
  · refine (hanswered.otherSlots u hu).trans ?_
    rw [State.link, hlink]
    exact cached_noReplies u

/-! ### The command -/

theorem readHello_some {c len : Byte} {label : List Byte} (h : labelWellFormed len label = true) :
    readHello (c :: len :: label) = some ⟨c.toNat, label⟩ := if_pos h

theorem exec_hello {s : State} {p : Port} {tb c len : Byte} {label : List Byte} (h : Takes s p tb (c :: len :: label))
    (hflags : anyFlag tb = false) (hlabel : labelWellFormed len label = true) :
    exec (.hello p tb (c :: len :: label)) s = .next (serveHello (afterTake s p tb)
      ⟨replyFor s p .hello tb, tb, c :: len :: label⟩ ⟨c.toNat, label⟩) :=
  (exec_served h (.inl rfl)).trans (withFields_some _ _ readHello _ _
    ((fields_unflagged _ _ _ _ hflags).trans (readHello_some hlabel)))

section
variable {s : State} {q : Request} {f : HelloFields}

theorem serveHello_outOfRange (h : 16 < f.credit) : serveHello s q f = answer s q.replyTo .badParam := if_pos h

variable {p : Port} {tag : Tag} {n : Option SessNo} (hq : q.replyTo = ⟨p, tag, n, .hello⟩) (hcredit : f.credit ≤ 16)
include hq hcredit

theorem serveHello_closed (h : (s.session p).live = false) : serveHello s q f = openAndReply s q f := by
  unfold serveHello
  dsimp only
  rw [if_neg (Nat.not_lt.mpr hcredit), hq, h]
  rfl

theorem serveHello_live (h : (s.session p).live = true) : serveHello s q f =
    restartIf (openAndReply (settle (loseSession s p .rehello (some tag))) q f) (discardsRestart s p) := by
  unfold serveHello
  dsimp only
  rw [if_neg (Nat.not_lt.mpr hcredit), hq, if_pos h]

end

/-! ### HELLO on a live port (R23) -/

/-- What the new session and its reply read is as it was before the loss. -/
structure SameHello (p : Port) (s t : State) : Prop where
  number : (t.session p).number = (s.session p).number
  now : t.now = s.now
  params : t.params = s.params
  supervisor : t.supervisor = s.supervisor
  bootCause : t.bootCause = s.bootCause
  clock : t.clock = s.clock
  condition : t.seq.condition = s.seq.condition

theorem SameHello.of_offPorts {p : Port} {s t : State} (h : OffPorts s t)
    (hnumber : (t.session p).number = (s.session p).number) : SameHello p s t :=
  ⟨hnumber, h.now, h.params, h.supervisor, h.bootCause, h.clock, congrArg Sequencer.condition h.seq⟩

theorem SameHello.trans {p : Port} {s t u : State} (h : SameHello p s t) (g : SameHello p t u) : SameHello p s u :=
  ⟨g.number.trans h.number, g.now.trans h.now, g.params.trans h.params, g.supervisor.trans h.supervisor,
    g.bootCause.trans h.bootCause, g.clock.trans h.clock, g.condition.trans h.condition⟩

theorem loseSession_sameHello {s : State} {p : Port} {keep : Option Tag} (c : LossCause)
    (hlost : LinkLost s (settle (loseSession s p c keep)) p keep) : SameHello p s (settle (loseSession s p c keep)) := by
  have hframes : Frames .hello p s (settle (loseSession s p c keep)) :=
    (loseSession_frames (.inl rfl) (.inr rfl) s c keep).trans ((settle_onlyWork _).frames (by simp))
  have hcondition : (settle (loseSession s p c keep)).seq.condition = s.seq.condition :=
    (settle_condition _).trans (offQuiet_condition (loseSession_closed closed_offQuiet s p c keep))
  generalize settle (loseSession s p c keep) = t at hlost hframes hcondition
  have hset := hframes.setting
  exact ⟨(congrArg Session.number hlost.session :), (congrArg State.now hset :), hframes.params (by simp),
    (congrArg State.supervisor hset :), (congrArg State.bootCause hset :), (congrArg State.clock hset :), hcondition⟩

theorem SameHello.session {p : Port} {s t : State} (h : SameHello p s t) (credit : Nat) (label : List Byte) :
    (openedPort t p credit label).session = (openedPort s p credit label).session := by
  simp only [openedPort, h.number, h.now, h.params]

theorem SameHello.fields {p : Port} {s t : State} (h : SameHello p s t) (dram detail : Byte) :
    helloFields t p dram detail = helloFields s p dram detail := by
  simp only [helloFields, h.number, h.supervisor, h.bootCause, h.clock, h.condition]

theorem afterTake_entry {s : State} (p : Port) {tb : Byte} (h : (s.session p).live = true) :
    ((afterTake s p tb).link p).entry (tagOf tb) ≠ .taken none := by
  have hentry : ((afterTake s p tb).link p).entry (tagOf tb) = .taken (s.presentSession p) :=
    of_decide_eq_true (Bool.and_eq_true_iff.mp (accepts_taken s p .hello tb)).1
  rw [hentry, State.presentSession, if_pos h]
  exact nofun

theorem discardsRestart_afterTake (s : State) (p : Port) (tb : Byte) :
    discardsRestart (afterTake s p tb) p = discardsRestart s p := by
  rw [discardsRestart, afterTake_link_responses]
  rfl

theorem sameHello_afterTake (s : State) (p : Port) (tb : Byte) : SameHello p s (afterTake s p tb) :=
  .of_offPorts (afterTake_offPorts s p tb) (afterTake_session_number s p tb p)

/-- The port of a HELLO that opens a session, as the statement writes it: with no entry for its tag. -/
def helloOpened (s : State) (p : Port) (credit : Nat) (label : List Byte) : State :=
  (reportGood s p).setPort p
    { (reportGood s p).port p with
      session := (openedPort s p credit label).session
      link := { (reportGood s p).link p with cache := noReplies, credit := credit }
      notices := ⟨[], 0, 0⟩ }

theorem openAndReply_answered {s : State} {p : Port} {tb : Byte} (f : HelloFields) {q : Request}
    (hq : q.replyTo = replyFor s p .hello tb) :
    Answered (helloOpened s p f.credit f.label) (openAndReply (afterTake s p tb) q f)
      ⟨p, tagOf tb, some ((s.session p).number + 1), .hello⟩ false
      (helloFields s p s.seq.dram.code s.seq.dram.detail) := by
  have hsame := sameHello_afterTake s p tb
  have hport := openSession_port (afterTake s p tb) p (tagOf tb) f.credit f.label
  have hopened : (helloOpened s p f.credit f.label).port p = _ := port_setPort_self _ _ _
  have htaken : (afterTake s p tb).link p = { (reportGood s p).link p with
      inFlight := ((reportGood s p).link p).withEntry (tagOf tb) (.taken ((reportGood s p).presentSession p)) } :=
    link_setLink_self _ _ _
  have hanswered := answered_handReply _ _ false false
    (helloFields (afterTake s p tb) p (afterTake s p tb).seq.dram.code (afterTake s p tb).seq.dram.detail)
    (openSession_accepts (afterTake s p tb) p (tagOf tb) f.credit f.label)
  rw [openAndReply_eq _ f hq]
  rw [hsame.fields, afterTake_seq, hsame.number] at hanswered ⊢
  refine hanswered.forgetTag (x := .taken (some ((s.session p).number + 1))) rfl (fun r hr => ?_) ?_ ?_
  · exact (port_setPort_ne (afterTake s p tb) _ hr).trans ((port_setPort_ne _ _ hr).trans (port_setPort_ne _ _ hr).symm)
  · have hlink : (openSession (afterTake s p tb) p (tagOf tb) f.credit f.label).link p = _ := congrArg PortState.link hport
    have hbase : (helloOpened s p f.credit f.label).link p = _ := congrArg PortState.link hopened
    rw [hlink, hbase, htaken, hsame.number]
    simp only [Link.withEntry, Vector.set_set]
  · have hfifo : ((afterTake s p tb).port p).fifo = ((reportGood s p).port p).fifo :=
      (afterTake_fifo s p tb p).trans (reportGood_fifo s p p).symm
    have hslot : ((afterTake s p tb).port p).slot = ((reportGood s p).port p).slot :=
      (afterTake_slot s p tb p).trans (reportGood_slot s p p).symm
    simp only [OffLink, State.session, State.notices, State.fifo, State.slot, hport, hopened]
    exact ⟨hsame.session f.credit f.label, rfl, hfifo, hslot⟩

/-- HELLO on a live port: the loss, the opening after it, and a restart that the loss made due. -/
theorem hello_live {s t u v : State} {p : Port} {tag : Tag} {credit : Nat} {label : List Byte} {due : Bool}
    (hsame : SameHello p s u) (hleaves : LossLeaves s u p) (hopens : Opened u v p tag credit label)
    (ht : t = restartIf v due) : LossLeaves s t p ∧ t.session p = (openedPort s p credit label).session ∧
      t.notices p = ⟨[], 0, 0⟩ ∧ (t.link p).credit = credit ∧ (∀ w, (t.link p).entry w = .free) ∧
      (∀ w, w ≠ tag → (t.link p).cached w = none) ∧
      Replied t ⟨p, tag, some ((s.session p).number + 1), .hello⟩
        (helloFields s p u.seq.dram.code u.seq.dram.detail) ∧
      (due = false → t.seq = u.seq) := by
  have hlink : SameLink p v t :=
    ht ▸ restartIf_sameLink (fun r hr => acceptsReply_of_free (hr ▸ hopens.tags)) due
  have hstays : StaysLost p v t := ht ▸ .restartIf v due
  have hreplied := restartIf_closed closed_keepsReplies seqClosed_keepsReplies (fun _ _ => .of_link fun _ => rfl) v due _ _
    hopens.replied
  rw [← ht, hsame.number, hsame.fields] at hreplied
  refine ⟨hleaves.after (hopens.stays.trans hstays), hlink.session.trans (hopens.session.trans (hsame.session credit label)),
    hlink.notices.trans hopens.notices, ?_, fun w => ?_, fun w hw => ?_, hreplied, fun hkept => ?_⟩
  · rw [hlink.link]
    exact hopens.credit
  · rw [hlink.link]
    exact hopens.tags w
  · rw [hlink.link]
    exact hopens.slots w hw
  · rw [ht, hkept]
    exact hopens.rest.seq

/-- Settles O23: HELLO on a CLOSED port opens its session; on a live one the loss comes first, and a restart that it
makes due comes last. -/
theorem helloOpensASession : Obligations.HelloOpensASession := by
  refine ⟨fun p tb c len label s h hflags hlabel => ⟨fun hcredit => ?_, fun hcredit hstate => ?_⟩,
    fun p tb c len label s h hflags hlabel hcredit hlive => ?_⟩
  · exact answersStatus_of_answer _ s p .hello tb .badParam
      ((exec_hello h hflags hlabel).trans (congrArg Host.Outcome.next (serveHello_outOfRange hcredit)))
  · have hclosed : ((afterTake s p tb).session p).live = false := by rw [afterTake_live, Session.live, hstate]
    have hexec := (exec_hello h hflags hlabel).trans (congrArg Host.Outcome.next (serveHello_closed rfl hcredit hclosed))
    exact ⟨_, hexec, openAndReply_answered ⟨c.toNat, label⟩ rfl⟩
  · have hopen : ((afterTake s p tb).session p).live = true := (afterTake_live s p tb p).trans hlive
    have hexec := (exec_hello h hflags hlabel).trans (congrArg Host.Outcome.next (serveHello_live rfl hcredit hopen))
    rw [discardsRestart_afterTake] at hexec
    have hstart := sameHello_afterTake s p tb
    obtain ⟨hlost, -⟩ := settle_loseSession_lost (s := afterTake s p tb) (p := p) (keep := some (tagOf tb)) .rehello
      fun u hu => Option.some.inj hu ▸ afterTake_entry p hlive
    have hsame := hstart.trans (loseSession_sameHello .rehello hlost)
    have hleaves := ((loseSession_leaves (afterTake s p tb) p .rehello (some (tagOf tb))).before
      (ReadyToLose.afterTake s p tb)).after (StaysLost.settle _)
    generalize settle (loseSession (afterTake s p tb) p .rehello (some (tagOf tb))) = u at hlost hsame hleaves hexec
    have htags : ∀ v, v ≠ tagOf tb → (u.link p).entry v = .free := fun v hv => by
      rw [hlost.link]
      exact entry_lose_some _ hv
    have hopens := openAndReply_opens (q := ⟨replyFor s p .hello tb, tb, c :: len :: label⟩) ⟨c.toNat, label⟩ rfl htags
    obtain ⟨hlosses, hsession, hnotices, hcredits, htagged, hslots, hreplied, hkept⟩ :=
      hello_live hsame hleaves hopens (due := discardsRestart s p) rfl
    refine ⟨_, u.seq.dram.code, u.seq.dram.detail, hexec, hlosses, hsession, hnotices, hcredits, htagged, hslots, hreplied,
      fun hdue => ?_⟩
    rw [hkept hdue]
    exact ⟨rfl, rfl⟩

end Sys2Proof.Machine
end
